-- ==== Sys2Proof/Word.lean ====
section
/-! DEFINITION. The word type of the sample spaces. -/

namespace Sys2Proof

/-- One cell of IN or OUT: an unsigned integer in `[0, 65535]`, whatever the depth of a run
(20_memory.md R41). -/
abbrev Sample := BitVec 16

end Sys2Proof
end

