-- ==== Sys2Proof/Config.lean ====
section
/-! DEFINITION. The parameters of one engine instance (00_scope.md R9, R10) and the free values of the model. -/

namespace Sys2Proof

/-- `SAMPLE_BYTE_ORDER` (20_memory.md R42): the order of a sample's two bytes where a platform lays
cells in byte memory. No engine rule reads it. -/
inductive ByteOrder where
  | little
  | big
  deriving DecidableEq, Repr

/-- `AHD_PROJECT` (46_ahd.md R169): the spec's default transform, or any other total function of the
platform, of which nothing is known (`Config.platformProject`). -/
inductive AhdProject where
  | opponent
  | platform
  deriving DecidableEq, Repr

/-- The parameters of 00_scope.md R9, each with its default. `inLen` and `outLen` are OPEN there and
have none. Constants of one instance: no register holds them and no step changes them (R10). -/
structure Params where
  /-- `IN_LEN`, the number of cells of IN. -/
  inLen : Nat
  /-- `OUT_LEN`, the number of cells of OUT. -/
  outLen : Nat
  /-- `DIM_BITS`, the width of WIDTH and HEIGHT. -/
  dimBits : Nat := 32
  /-- `SAMPLE_BYTE_ORDER`. -/
  byteOrder : ByteOrder := .little
  /-- `HQ_NUM`. -/
  hqNum : Nat := 1
  /-- `HQ_DEN`. -/
  hqDen : Nat := 2
  /-- `EDGE_EPS(8)`. -/
  edgeEps8 : Nat := 2
  /-- `EDGE_EPS(16)`. -/
  edgeEps16 : Nat := 512
  /-- `VNG_K1_NUM`. -/
  vngK1Num : Nat := 3
  /-- `VNG_K2_NUM`. -/
  vngK2Num : Nat := 1
  /-- `VNG_DEN`. -/
  vngDen : Nat := 2
  /-- `AHD_PROJECT`. -/
  ahdProject : AhdProject := .opponent
  /-- `AHD_EPS_L(8) = 2^(8-4)`. -/
  ahdEpsL8 : Nat := 16
  /-- `AHD_EPS_L(16) = 2^(16-4)`. -/
  ahdEpsL16 : Nat := 4096
  /-- `AHD_EPS_C(8) = 2^(8-5)`. -/
  ahdEpsC8 : Nat := 8
  /-- `AHD_EPS_C(16) = 2^(16-5)`. -/
  ahdEpsC16 : Nat := 2048
  deriving DecidableEq, Repr

/-- The constraints of 92_eei_decisions.md ("Constraints a model must keep on the OPEN parameters");
those of the form `>= 0` hold by type. The sizes are "any positive integers" (00_scope.md R9). -/
def Params.ok (p : Params) : Bool :=
  1 ≤ p.inLen && 1 ≤ p.outLen && 1 ≤ p.hqDen && 1 ≤ p.vngDen && p.vngDen ≤ p.vngK1Num

/-- The platform of the programs of 95_test_vectors.md Part 3: `IN_LEN = 16`, `OUT_LEN = 48`, every
other parameter at its default. DESIGN CHOICE (log 5): the spec gives the sizes no default. -/
def Params.reference : Params where
  inLen := 16
  outLen := 48

/-- `MIN_DIM`, the least legal WIDTH and HEIGHT (00_scope.md R9, fixed at 2). -/
def Config.minDim : Nat := 2

/-- The free value number `n` (log 7): what a cell holds, or a read returns, where the spec says
`any value` in `[0, 65535]` (20_memory.md R61, 70_reset_and_hazards.md R207). No body: nothing is known of it. -/
opaque Config.freeSample : Nat → Sample

/-- A platform's own `AHD_PROJECT` (46_ahd.md R169), "any total function from `[0, MAX]^3` to integer
triples". No body: nothing is known of it. -/
opaque Config.platformProject : Int → Int → Int → Int × Int × Int

end Sys2Proof
end

