-- ==== Sys2Proof/Syntax.lean ====
section
/-! DEFINITION. The names of the command set: patterns, methods, depths, channels, the sixteen decode
commands, the latched command and the turns of the two agents. -/

namespace Sys2Proof

/-- The four CFA patterns (30_encoding.md R68). -/
inductive Pattern where
  | rggb
  | gbrg
  | grbg
  | bggr
  deriving DecidableEq, Repr

/-- The eight methods, in the order of their codes (30_encoding.md R67). -/
inductive Method where
  | nearest
  | simple
  | bilinear
  | hqlinear
  | downsample
  | edgesense
  | vng
  | ahd
  deriving DecidableEq, Repr

/-- The two bit-depth paths (30_encoding.md R69). -/
inductive Depth where
  | d8
  | d16
  deriving DecidableEq, Repr

/-- The primary colours, which are also the channels of an output triple (00_scope.md R14). -/
inductive Chan where
  | r
  | g
  | b
  deriving DecidableEq, Repr

/-- The decode commands, one constructor per row of opcode_table.json (30_encoding.md R71). The
operand is CTRL.PATTERN; WIDTH and HEIGHT are register operands, read from CMD_L by the run. -/
inductive Instr where
  | nearest8 (p : Pattern)
  | simple8 (p : Pattern)
  | bilinear8 (p : Pattern)
  | hqlinear8 (p : Pattern)
  | downsample8 (p : Pattern)
  | edgesense8 (p : Pattern)
  | vng8 (p : Pattern)
  | ahd8 (p : Pattern)
  | nearest16 (p : Pattern)
  | simple16 (p : Pattern)
  | bilinear16 (p : Pattern)
  | hqlinear16 (p : Pattern)
  | downsample16 (p : Pattern)
  | edgesense16 (p : Pattern)
  | vng16 (p : Pattern)
  | ahd16 (p : Pattern)
  deriving DecidableEq, Repr

/-- A command, the triple `(CTRL, WIDTH, HEIGHT)` (30_encoding.md R65); CMD_L is one (10_state.md R25).
The dimensions are plain numbers, "used as it stands" (R70); that they fit DIM_BITS is checked where
HOST writes them (R76). -/
structure Command where
  ctrl : BitVec 8
  width : Nat
  height : Nat
  deriving DecidableEq, Repr

/-- One turn of an agent (00_scope.md R7, R8; log 4): an access of HOST (30_encoding.md R77, with FILL
and READ one cell at a time, 20_memory.md R51), HOST's polling loop WAIT (R78), the reset event
(70_reset_and_hazards.md R205), or a turn given to ENGINE. -/
inductive Move where
  /-- `WR <register>, <value>`. -/
  | wr (number value : Nat)
  /-- `RD <register>`. -/
  | rd (number : Nat)
  /-- HOST writes one IN cell (a cell of FILL). -/
  | wrIn (index : Nat) (value : Sample)
  /-- HOST reads one IN cell (70_reset_and_hazards.md R214 allows it at any time). -/
  | rdIn (index : Nat)
  /-- HOST writes one OUT cell. -/
  | wrOut (index : Nat) (value : Sample)
  /-- HOST reads one OUT cell (a cell of READ). -/
  | rdOut (index : Nat)
  /-- `WAIT`: poll STATUS until DONE is read. -/
  | wait
  /-- The reset event, from outside the engine. -/
  | reset
  /-- ENGINE's turn. -/
  | engine
  deriving DecidableEq, Repr

end Sys2Proof
end

