-- ==== Sys2Proof/Decode.lean ====
section
/-! DEFINITION. The encoding: CTRL's fields and codes (30_encoding.md R66 to R69), the decoder from CTRL
(R73), the encoder, HOST's statements and the pseudo-instructions (R77, R78). -/

namespace Sys2Proof

/-- Why a CTRL value names no command: `bits[7:6] != 0`, the only such encodings (30_encoding.md R72). -/
inductive DecodeError where
  | reservedCtrlBits
  deriving DecidableEq, Repr

/-- `CTRL.bits[7:6]`, reserved (30_encoding.md R66). -/
def ctrlReserved (c : BitVec 8) : BitVec 2 := c.extractLsb' 6 2

/-- `CTRL.DEPTH16 = bits[5]` (30_encoding.md R66). -/
def ctrlDepth16 (c : BitVec 8) : BitVec 1 := c.extractLsb' 5 1

/-- `CTRL.PATTERN = bits[4:3]` (30_encoding.md R66). -/
def ctrlPattern (c : BitVec 8) : BitVec 2 := c.extractLsb' 3 2

/-- `CTRL.METHOD = bits[2:0]` (30_encoding.md R66). -/
def ctrlMethod (c : BitVec 8) : BitVec 3 := c.extractLsb' 0 3

/-- The METHOD codes (30_encoding.md R67); three bits, fully used, so the last arm is code 7 alone. -/
def Method.ofCode (m : BitVec 3) : Method :=
  match m.toNat with
  | 0 => .nearest
  | 1 => .simple
  | 2 => .bilinear
  | 3 => .hqlinear
  | 4 => .downsample
  | 5 => .edgesense
  | 6 => .vng
  | _ => .ahd

/-- The code of a method (30_encoding.md R67). -/
def Method.code : Method → BitVec 3
  | .nearest => 0
  | .simple => 1
  | .bilinear => 2
  | .hqlinear => 3
  | .downsample => 4
  | .edgesense => 5
  | .vng => 6
  | .ahd => 7

/-- The PATTERN codes (30_encoding.md R68); two bits, fully used, so the last arm is code 3 alone. -/
def Pattern.ofCode (p : BitVec 2) : Pattern :=
  match p.toNat with
  | 0 => .rggb
  | 1 => .gbrg
  | 2 => .grbg
  | _ => .bggr

/-- The code of a pattern (30_encoding.md R68). -/
def Pattern.code : Pattern → BitVec 2
  | .rggb => 0
  | .gbrg => 1
  | .grbg => 2
  | .bggr => 3

/-- DEPTH16 (30_encoding.md R69): 0 is `D = 8`, 1 is `D = 16`. -/
def Depth.ofCode (d : BitVec 1) : Depth := if d = 0 then .d8 else .d16

/-- The DEPTH16 bit of a depth (30_encoding.md R69). -/
def Depth.code : Depth → BitVec 1
  | .d8 => 0
  | .d16 => 1

/-- The command with a given opcode `(depth, method)` and pattern operand (30_encoding.md R71). -/
def Instr.ofOpcode (d : Depth) (m : Method) (p : Pattern) : Instr :=
  match d, m with
  | .d8, .nearest => .nearest8 p
  | .d8, .simple => .simple8 p
  | .d8, .bilinear => .bilinear8 p
  | .d8, .hqlinear => .hqlinear8 p
  | .d8, .downsample => .downsample8 p
  | .d8, .edgesense => .edgesense8 p
  | .d8, .vng => .vng8 p
  | .d8, .ahd => .ahd8 p
  | .d16, .nearest => .nearest16 p
  | .d16, .simple => .simple16 p
  | .d16, .bilinear => .bilinear16 p
  | .d16, .hqlinear => .hqlinear16 p
  | .d16, .downsample => .downsample16 p
  | .d16, .edgesense => .edgesense16 p
  | .d16, .vng => .vng16 p
  | .d16, .ahd => .ahd16 p

/-- The depth of a command's opcode (30_encoding.md R71). -/
def Instr.depth : Instr → Depth
  | .nearest8 _ | .simple8 _ | .bilinear8 _ | .hqlinear8 _ => .d8
  | .downsample8 _ | .edgesense8 _ | .vng8 _ | .ahd8 _ => .d8
  | .nearest16 _ | .simple16 _ | .bilinear16 _ | .hqlinear16 _ => .d16
  | .downsample16 _ | .edgesense16 _ | .vng16 _ | .ahd16 _ => .d16

/-- The method of a command's opcode (30_encoding.md R71). -/
def Instr.method : Instr → Method
  | .nearest8 _ | .nearest16 _ => .nearest
  | .simple8 _ | .simple16 _ => .simple
  | .bilinear8 _ | .bilinear16 _ => .bilinear
  | .hqlinear8 _ | .hqlinear16 _ => .hqlinear
  | .downsample8 _ | .downsample16 _ => .downsample
  | .edgesense8 _ | .edgesense16 _ => .edgesense
  | .vng8 _ | .vng16 _ => .vng
  | .ahd8 _ | .ahd16 _ => .ahd

/-- The pattern operand of a command. -/
def Instr.pattern : Instr → Pattern
  | .nearest8 p | .nearest16 p | .simple8 p | .simple16 p => p
  | .bilinear8 p | .bilinear16 p | .hqlinear8 p | .hqlinear16 p => p
  | .downsample8 p | .downsample16 p | .edgesense8 p | .edgesense16 p => p
  | .vng8 p | .vng16 p | .ahd8 p | .ahd16 p => p

/-- The decoder from CTRL (30_encoding.md R73): total on the 64 values with `bits[7:6] = 0`, and it
rejects the rest by name (R72). -/
def decode (c : BitVec 8) : Except DecodeError Instr :=
  if ctrlReserved c = 0 then
    .ok (Instr.ofOpcode (Depth.ofCode (ctrlDepth16 c)) (Method.ofCode (ctrlMethod c))
      (Pattern.ofCode (ctrlPattern c)))
  else
    .error .reservedCtrlBits

/-- The CTRL value of a command, `(DEPTH16 << 5) | (PATTERN << 3) | METHOD` (30_encoding.md R71, R78). -/
def encode (i : Instr) : BitVec 8 :=
  (i.depth.code.setWidth 8 <<< 5) ||| (i.pattern.code.setWidth 8 <<< 3) ||| i.method.code.setWidth 8

/-- The host's probe: the instruction the decoder reads from a table word, which is CTRL alone (8 bits;
opcode_table.json). A number that does not fit CTRL is no such word. -/
def decodeTableWord (nbits w : Nat) : Option Instr :=
  if nbits = 8 ∧ w < 256 then
    match decode (BitVec.ofNat 8 w) with
    | .ok i => some i
    | .error _ => none
  else
    none

/-- A HOST statement as a tuple (30_encoding.md R77): WR is `(1, number, value)`, RD is `(0, number)`.
The rule defines no tuple for the other turns. -/
def Move.tuple : Move → Option (List Nat)
  | .wr n v => some [1, n, v]
  | .rd n => some [0, n]
  | .wrIn _ _ | .rdIn _ | .wrOut _ _ | .rdOut _ | .wait | .reset | .engine => none

/-- The statement a tuple encodes (30_encoding.md R77). -/
def Move.ofTuple : List Nat → Option Move
  | [1, n, v] => some (.wr n v)
  | [0, n] => some (.rd n)
  | _ => none

/-- `FILL IN[<i>], <v0> <v1> ...` (30_encoding.md R77), cell by cell. -/
def fillMoves (i : Nat) : List Sample → List Move
  | [] => []
  | v :: vs => .wrIn i v :: fillMoves (i + 1) vs

/-- `READ OUT[<i>], <n>` (30_encoding.md R77), cell by cell. -/
def readMoves (i : Nat) : Nat → List Move
  | 0 => []
  | n + 1 => .rdOut i :: readMoves (i + 1) n

/-- `DECODE.<METHOD>.<8|16> <PATTERN>, <W>, <H>` (30_encoding.md R78). -/
def decodeMoves (i : Instr) (w h : Nat) : List Move :=
  [.wr 0 w, .wr 1 h, .wr 2 (encode i).toNat, .wr 3 1]

/-- `RUN.<METHOD>.<8|16> <PATTERN>, <W>, <H>` (30_encoding.md R78): DECODE, then WAIT. -/
def runMoves (i : Instr) (w h : Nat) : List Move :=
  decodeMoves i w h ++ [.wait]

end Sys2Proof
end

