-- ==== Sys2Proof/WellFormed.lean ====
section
/-! DEFINITION. Which commands are legal. Every `Instr` is well-formed: its fields are closed
enumerations without an illegal value (30_encoding.md R73). A command as HOST spells it, the triple of
R65, can be ill-formed in three ways. -/

namespace Sys2Proof

/-- `CTRL.bits[7:6]` are zero (30_encoding.md R72). -/
def Command.ctrlLegal (k : Command) : Bool := ctrlReserved k.ctrl = 0

/-- `WIDTH >= MIN_DIM` (10_state.md R21, 41_dispatcher.md R104). -/
def Command.widthLegal (k : Command) : Bool := Config.minDim ≤ k.width

/-- `HEIGHT >= MIN_DIM` (10_state.md R22, 41_dispatcher.md R104). -/
def Command.heightLegal (k : Command) : Bool := Config.minDim ≤ k.height

/-- A command that a START may latch, sizes of the spaces apart (30_encoding.md R72, R74). -/
def Command.wellFormed (k : Command) : Bool := k.ctrlLegal && k.widthLegal && k.heightLegal

end Sys2Proof
end

