-- ==== Sys2Proof/Machine/State.lean ====
section
/-! DEFINITION. The state of the machine: the spec's architectural state (10_state.md R20), the instance's
parameters, and the model's own bookkeeping of the two agents; reset; the reasons a step stops. -/

namespace Sys2Proof.Machine

/-- A sample space, IN or OUT (20_memory.md R40): `(index, sample)` pairs, indices strictly rising, no
entry equal to 0, which an unlisted cell reads as (DESIGN CHOICE, log 3). The spec's unit of addressing
is the sample; it has no bytes (R42, log 1). -/
abbrev Memory := List (Nat × Sample)

/-- The canonical form of a space. -/
abbrev Memory.wf (m : Memory) : Prop :=
  m.Pairwise (fun a b => a.1 < b.1) ∧ ∀ c ∈ m, c.2 ≠ 0#16

/-- The faults: none. "The set of exception causes is empty" (60_exceptions.md R185). -/
inductive Fault where
  deriving DecidableEq, Repr

/-- `refuse(reason)` (60_exceptions.md R186, R187): the spec gives the move no meaning. All are safe: the
model stops where the hardware may do anything. -/
inductive Refusal where
  /-- An arm of exec without a meaning. No arm is left so; raised by nothing. Safe. -/
  | notModelled (mnemonic : String)
  /-- START or a HOST read of WIDTH, HEIGHT, CTRL before it was written since reset: the spec's own
  `refuse(unwritten_register)` (10_state.md R36; 60_exceptions.md R186; 70_reset_and_hazards.md R206; U1 and U2 of
  93_implementation_defined.md). Safe. -/
  | unwrittenRegister
  /-- START, or a run, with `CTRL.bits[7:6] != 0` (30_encoding.md R72). Safe. -/
  | reservedCtrlBits
  /-- START, or a run, with a dimension below 2 (41_dispatcher.md R104). Safe. -/
  | dimensionTooSmall
  /-- START with `IN_LEN < N_in` or `OUT_LEN < N_out` (20_memory.md R50). Safe. -/
  | bufferTooSmall
  /-- START, or an 8-bit run, with an IN cell below `N_in` above 255 (20_memory.md R41). Safe. -/
  | depthMismatch
  /-- A write of 1 to START while BUSY (10_state.md R28). Safe. -/
  | startWhileBusy
  /-- An access of HOST or of a run beyond IN (20_memory.md R43). Safe. -/
  | inOutOfRange
  /-- An access of HOST or of a run beyond OUT (20_memory.md R44). Safe. -/
  | outOutOfRange
  /-- A HOST write of a value wider than the register (30_encoding.md R76). Safe. -/
  | valueTooWide
  /-- A HOST access to a register number above 4 (30_encoding.md R76). Safe. -/
  | noSuchRegister
  /-- A HOST read of START, which is write-only (10_state.md R24; the spec gives the refusal no name). Safe. -/
  | startWriteOnly
  /-- A run of an instance whose parameters break the constraints of 92_eei_decisions.md. Safe (log 5). -/
  | parametersIllegal
  deriving DecidableEq, Repr

/-- The machine. The first group is the spec's architectural state (10_state.md R20), the second the
model's own bookkeeping (INVENTORY.md, State). -/
structure State where
  /-- The constants of the instance (00_scope.md R9, R10). -/
  params : Params
  /-- WIDTH, register 0 (10_state.md R21). -/
  width : Nat
  /-- HEIGHT, register 1 (10_state.md R22). -/
  height : Nat
  /-- CTRL, register 2 (10_state.md R23). -/
  ctrl : BitVec 8
  /-- WIDTH's written-since-reset mark (10_state.md R36). -/
  widthWritten : Bool
  /-- HEIGHT's written-since-reset mark (10_state.md R36). -/
  heightWritten : Bool
  /-- CTRL's written-since-reset mark (10_state.md R36). -/
  ctrlWritten : Bool
  /-- STATUS, register 4: BUSY is bit 0, DONE bit 1 (10_state.md R27). -/
  status : BitVec 2
  /-- CMD_L, the latched command (10_state.md R25). -/
  cmd : Command
  /-- IN, the mosaic space (10_state.md R31). -/
  inp : Memory
  /-- OUT, the RGB space (10_state.md R32). -/
  out : Memory
  /-- The runs that have ended, newest first, since HOST last read STATUS with DONE = 1: HOST's duties
  toward each still stand (70_reset_and_hazards.md R214, R217; log 6). -/
  unread : List Command
  /-- HOST wrote IN below `N_in` during the run in flight (20_memory.md R61). -/
  inConflict : Bool
  /-- The OUT cells HOST wrote during the run in flight, rising (20_memory.md R61). -/
  outConflicts : List Nat
  /-- The turns to come (log 4). -/
  moves : List Move
  /-- The values HOST has received, newest first (70_reset_and_hazards.md R212). -/
  reads : List Nat
  /-- How many free values have been drawn (log 7). -/
  freeCtr : Nat
  deriving DecidableEq, Repr

/-- The machine right after reset (10_state.md R37). The registers without a value hold 0 behind clear
marks (log 2), the spaces list nothing (log 3), the platform is that of 95_test_vectors.md Part 3 (log 5). -/
def State.reset : State where
  params := Params.reference
  width := 0
  height := 0
  ctrl := 0
  widthWritten := false
  heightWritten := false
  ctrlWritten := false
  status := 0
  cmd := { ctrl := 0, width := 0, height := 0 }
  inp := []
  out := []
  unread := []
  inConflict := false
  outConflicts := []
  moves := []
  reads := []
  freeCtr := 0

end Sys2Proof.Machine
end

