-- ==== Sys2Proof/Machine/Flags.lean ====
section
/-! DEFINITION. STATUS, the only flags of the engine (10_state.md R27, R29), and the quantities a command
fixes: its geometry, `N_in` and `N_out` (20_memory.md R48, R49). -/

namespace Sys2Proof.Machine

/-- STATUS IDLE, `0b00`: no run since reset (10_state.md R27). -/
def statusIdle : BitVec 2 := 0b00#2

/-- STATUS BUSY, `0b01` (10_state.md R27). -/
def statusBusy : BitVec 2 := 0b01#2

/-- STATUS DONE, `0b10`: the last run completed (10_state.md R27). -/
def statusDone : BitVec 2 := 0b10#2

/-- `STATUS.BUSY = bits[0]` (10_state.md R27). -/
def busy (s : State) : Bool := s.status.getLsbD 0

/-- `STATUS.DONE = bits[1]` (10_state.md R27). -/
def done (s : State) : Bool := s.status.getLsbD 1

/-- The output geometry of a method (41_dispatcher.md R100): the mosaic's, or half of it per axis. -/
inductive Geometry where
  | full
  | half
  deriving DecidableEq, Repr

/-- DOWNSAMPLE alone halves (41_dispatcher.md R100). -/
def geometryOf : Method → Geometry
  | .downsample => .half
  | .nearest | .simple | .bilinear | .hqlinear | .edgesense | .vng | .ahd => .full

/-- The columns of the output image: `W`, or `W2 = W div 2` (20_memory.md R48). -/
def outCols (g : Geometry) (k : Command) : Nat :=
  match g with
  | .full => k.width
  | .half => k.width / 2

/-- The rows of the output image: `H`, or `H2 = H div 2` (20_memory.md R48). -/
def outRows (g : Geometry) (k : Command) : Nat :=
  match g with
  | .full => k.height
  | .half => k.height / 2

/-- `N_in = W * H` (20_memory.md R49). -/
def nIn (k : Command) : Nat := k.width * k.height

/-- The count of output samples of a geometry (20_memory.md R49). -/
def nOutOf (g : Geometry) (k : Command) : Nat := outCols g k * outRows g k * 3

/-- The method CTRL names (30_encoding.md R67). -/
def commandMethod (k : Command) : Method := Method.ofCode (ctrlMethod k.ctrl)

/-- The depth CTRL names (30_encoding.md R69). -/
def commandDepth (k : Command) : Depth := Depth.ofCode (ctrlDepth16 k.ctrl)

/-- `N_out` of a command (20_memory.md R49). -/
def nOut (k : Command) : Nat := nOutOf (geometryOf (commandMethod k)) k

end Sys2Proof.Machine
end

