-- ==== Sys2Proof/Machine/Ops.lean ====
section
/-! DEFINITION. The named operations over the spaces and the registers: cell reads and writes, the updates of
State, HOST's register accesses, START, and the reset event. The engine takes no exception and returns from
none (60_exceptions.md R185, R190, R191), so there is no operation for either. -/

namespace Sys2Proof.Machine

/-- The sample of a cell; an unlisted cell reads as 0 (log 3). -/
def Memory.read (m : Memory) (i : Nat) : Sample :=
  match m with
  | [] => 0#16
  | (a, v) :: t => if a = i then v else Memory.read t i

/-- A cell set to a value, in canonical form: writing 0 unlists the cell. -/
def Memory.write (m : Memory) (i : Nat) (v : Sample) : Memory :=
  match m with
  | [] => if v = 0#16 then [] else [(i, v)]
  | (a, w) :: t =>
    if i < a then
      if v = 0#16 then (a, w) :: t else (i, v) :: (a, w) :: t
    else if i = a then
      if v = 0#16 then t else (i, v) :: t
    else
      (a, w) :: Memory.write t i v

/-- Several cells written one after another. -/
def Memory.writeAll (m : Memory) (ws : List (Nat × Sample)) : Memory :=
  ws.foldl (fun acc w => acc.write w.1 w.2) m

/-- The writes that give every cell below `n` a free value, numbered from `ctr` (log 7). -/
def freeWrites (n ctr : Nat) : List (Nat × Sample) :=
  (List.range n).map fun i => (i, Config.freeSample (ctr + i))

/-- Some cell below `n` holds a value above 255 (20_memory.md R41). -/
def Memory.exceedsByte (m : Memory) (n : Nat) : Bool :=
  m.any fun c => c.1 < n && 255 < c.2.toNat

/-- The byte view of a 16-bit sample a platform may have (20_memory.md R42, R45): cell `i` lies at byte
addresses `2*i` and `2*i + 1`, in the order SAMPLE_BYTE_ORDER. No engine rule reads it. -/
def byteView (p : Params) (m : Memory) (address : Nat) : BitVec 8 :=
  let v := m.read (address / 2)
  let lowByte := v.extractLsb' 0 8
  let highByte := v.extractLsb' 8 8
  match p.byteOrder, address % 2 with
  | .little, 0 => lowByte
  | .little, _ => highByte
  | .big, 0 => highByte
  | .big, _ => lowByte

/-- WIDTH written, its mark set (10_state.md R21, R36). -/
def State.setWidth (s : State) (v : Nat) : State := { s with width := v, widthWritten := true }

/-- HEIGHT written, its mark set (10_state.md R22, R36). -/
def State.setHeight (s : State) (v : Nat) : State := { s with height := v, heightWritten := true }

/-- CTRL written as given, all eight bits, its mark set (10_state.md R23, R36). -/
def State.setCtrl (s : State) (v : BitVec 8) : State := { s with ctrl := v, ctrlWritten := true }

/-- The turns to come. -/
def State.setMoves (s : State) (ms : List Move) : State := { s with moves := ms }

/-- IN replaced. -/
def State.setInp (s : State) (m : Memory) : State := { s with inp := m }

/-- OUT replaced. -/
def State.setOut (s : State) (m : Memory) : State := { s with out := m }

/-- HOST receives a value. -/
def State.receive (s : State) (v : Nat) : State := { s with reads := v :: s.reads }

/-- HOST has read STATUS with DONE = 1: every window closes (20_memory.md R56 (b)). -/
def State.closeWindow (s : State) : State := { s with unread := [] }

/-- `n` free values have been drawn (log 7). -/
def State.drawFree (s : State) (n : Nat) : State := { s with freeCtr := s.freeCtr + n }

/-- A command latched, STATUS BUSY (41_dispatcher.md R101). -/
def State.latch (s : State) (k : Command) : State := { s with cmd := k, status := statusBusy }

/-- A run completed: OUT as given, STATUS DONE (41_dispatcher.md R102); the conflict marks have had
their effect, and the run waits for HOST to read DONE. -/
def State.complete (s : State) (m : Memory) (ctr : Nat) : State :=
  { s with
    out := m, status := statusDone, unread := s.cmd :: s.unread
    inConflict := false, outConflicts := [], freeCtr := ctr }

/-- The commands of the runs whose window is open, newest first: the run in flight, and those that ended
with DONE = 1 not read since (70_reset_and_hazards.md R214, R217). -/
def State.windows (s : State) : List Command := if busy s then s.cmd :: s.unread else s.unread

/-- The least index at or above every `N_out` of `ks`: the OUT cells below it are those the runs own. -/
def outBelow (ks : List Command) : Nat := ks.foldr (fun k n => max (nOut k) n) 0

/-- The OUT cells below this are spoilt by a HOST write of IN cell `i`: those of the ended runs in whose
window it falls (70_reset_and_hazards.md R214). -/
def State.spoiltBelow (s : State) (i : Nat) : Nat := outBelow (s.unread.filter fun k => i < nIn k)

/-- HOST wrote IN below `N_in` during the run (20_memory.md R61). -/
def State.markInConflict (s : State) : State := { s with inConflict := true }

/-- A number put into a rising list without repeats. -/
def insertRising (i : Nat) : List Nat → List Nat
  | [] => [i]
  | a :: t => if i < a then i :: a :: t else if i = a then a :: t else a :: insertRising i t

/-- HOST wrote an OUT cell below `N_out` during the run (20_memory.md R61). -/
def State.markOutConflict (s : State) (i : Nat) : State :=
  { s with outConflicts := insertRising i s.outConflicts }

/-- Every register, mark and hidden state as 70_reset_and_hazards.md R205 says. HOST has read no DONE of the run
in flight, so its window stays (log 6). -/
def State.clear (s : State) : State :=
  { s with
    width := 0, height := 0, ctrl := 0
    widthWritten := false, heightWritten := false, ctrlWritten := false
    status := statusIdle
    cmd := { ctrl := 0, width := 0, height := 0 }
    unread := s.windows, inConflict := false, outConflicts := [] }

/-- Every OUT cell below `n` takes a free value (20_memory.md R61, 70_reset_and_hazards.md R207, R214). -/
def State.freeOut (s : State) (n : Nat) : State :=
  (s.setOut (s.out.writeAll (freeWrites n s.freeCtr))).drawFree n

/-- The reset event (70_reset_and_hazards.md R205); during a run the abandoned run's OUT cells take free
values (R207), otherwise OUT is unchanged (10_state.md R37). IN is unchanged. -/
def resetEvent (s : State) : State :=
  if busy s then (s.freeOut (nOut s.cmd)).clear else s.clear

/-- What a HOST read of a register returns (10_state.md R24, R36; 30_encoding.md R76). -/
def regValue (s : State) (number : Nat) : Except Refusal Nat :=
  match number with
  | 0 => if s.widthWritten then .ok s.width else .error .unwrittenRegister
  | 1 => if s.heightWritten then .ok s.height else .error .unwrittenRegister
  | 2 => if s.ctrlWritten then .ok s.ctrl.toNat else .error .unwrittenRegister
  | 3 => .error .startWriteOnly
  | 4 => .ok s.status.toNat
  | _ => .error .noSuchRegister

/-- The command in the live registers, which START latches (41_dispatcher.md R101). -/
def liveCommand (s : State) : Command :=
  { ctrl := s.ctrl, width := s.width, height := s.height }

/-- The checks of START in their order; the first that fails decides (41_dispatcher.md R101). -/
def startRefusal (s : State) : Option Refusal :=
  if !(s.widthWritten && s.heightWritten && s.ctrlWritten) then some .unwrittenRegister
  else if !(liveCommand s).ctrlLegal then some .reservedCtrlBits
  else if !((liveCommand s).widthLegal && (liveCommand s).heightLegal) then some .dimensionTooSmall
  else if s.params.inLen < nIn (liveCommand s) || s.params.outLen < nOut (liveCommand s) then
    some .bufferTooSmall
  else if commandDepth (liveCommand s) = .d8 && s.inp.exceedsByte (nIn (liveCommand s)) then
    some .depthMismatch
  else none

/-- START (41_dispatcher.md R101): refused by its checks, or the live command latched and BUSY set. -/
def start (s : State) : Host.Outcome State Fault Refusal :=
  match startRefusal s with
  | some r => .refused r
  | none => .next (s.latch (liveCommand s))

/-- `WR <register>, <value>` (10_state.md R21 to R28; 30_encoding.md R76): a value wider than the register
is refused, WR START 0 does nothing, WR STATUS is ignored. -/
def writeRegister (s : State) (number value : Nat) : Host.Outcome State Fault Refusal :=
  match number with
  | 0 => if value < 2 ^ s.params.dimBits then .next (s.setWidth value) else .refused .valueTooWide
  | 1 => if value < 2 ^ s.params.dimBits then .next (s.setHeight value) else .refused .valueTooWide
  | 2 => if value < 256 then .next (s.setCtrl (BitVec.ofNat 8 value)) else .refused .valueTooWide
  | 3 =>
    if value = 0 then .next s
    else if value = 1 then if busy s then .refused .startWhileBusy else start s
    else .refused .valueTooWide
  | 4 => if value < 4 then .next s else .refused .valueTooWide
  | _ => .refused .noSuchRegister

/-- What HOST's knowledge becomes when it reads a register: reading STATUS with DONE = 1 closes every
window (20_memory.md R56 (b)); nothing else changes, reading has no side effect (10_state.md R27). -/
def State.observe (s : State) (number : Nat) : State :=
  if number = 4 && done s then s.closeWindow else s

/-- `RD <register>` (30_encoding.md R77). -/
def readRegister (s : State) (number : Nat) : Host.Outcome State Fault Refusal :=
  match regValue s number with
  | .error r => .refused r
  | .ok v => .next ((s.observe number).receive v)

/-- HOST writes one IN cell (20_memory.md R43). The cell takes the value. Every OUT cell of a run whose
window is open, and of whose IN it is a cell, is any value (R61; 70_reset_and_hazards.md R214): of an ended
run at once, of the run in flight at DONE (log 6). -/
def writeIn (s : State) (i : Nat) (v : Sample) : Host.Outcome State Fault Refusal :=
  if s.params.inLen ≤ i then .refused .inOutOfRange
  else
    let t := (s.setInp (s.inp.write i v)).freeOut (s.spoiltBelow i)
    .next (if busy s && i < nIn s.cmd then t.markInConflict else t)

/-- HOST reads one IN cell, at any time (70_reset_and_hazards.md R214; 20_memory.md R43). -/
def readIn (s : State) (i : Nat) : Host.Outcome State Fault Refusal :=
  if s.params.inLen ≤ i then .refused .inOutOfRange
  else .next (s.receive (s.inp.read i).toNat)

/-- HOST writes one OUT cell (20_memory.md R44). A cell of a run whose window is open is any value (R61;
70_reset_and_hazards.md R217): at DONE if it is the run in flight, else at once (log 6). -/
def writeOut (s : State) (i : Nat) (v : Sample) : Host.Outcome State Fault Refusal :=
  if s.params.outLen ≤ i then .refused .outOutOfRange
  else if busy s && i < nOut s.cmd then .next (s.markOutConflict i)
  else if i < outBelow s.unread then
    .next ((s.setOut (s.out.write i (Config.freeSample s.freeCtr))).drawFree 1)
  else .next (s.setOut (s.out.write i v))

/-- HOST reads one OUT cell (20_memory.md R44). Of a cell of a run whose window is open it receives any value
(R61; 70_reset_and_hazards.md R217; log 6). -/
def readOut (s : State) (i : Nat) : Host.Outcome State Fault Refusal :=
  if s.params.outLen ≤ i then .refused .outOutOfRange
  else if i < outBelow s.windows then
    .next ((s.receive (Config.freeSample s.freeCtr).toNat).drawFree 1)
  else .next (s.receive (s.out.read i).toNat)

end Sys2Proof.Machine
end

