-- ==== Sys2Proof/Machine/Operands.lean ====
section
/-! DEFINITION. The operands of every command: the arithmetic primitives (00_scope.md R12), the CFA decoder
and neighbour sets (40_pixel_addressing.md), and the sample-buffer view of a run (20_memory.md R46). -/

namespace Sys2Proof.Machine

/-- `MAX = 2^D - 1` (00_scope.md R9, 30_encoding.md R69). -/
def maxSample : Depth → Int
  | .d8 => 255
  | .d16 => 65535

/-- `tdiv(a, b)`, rounding toward zero (00_scope.md R12). -/
def tdiv (a b : Int) : Int := Int.tdiv a b

/-- `clamp(v)` (00_scope.md R12). -/
def clamp (d : Depth) (v : Int) : Int :=
  if v < 0 then 0 else if maxSample d < v then maxSample d else v

/-- `abs(a)` (00_scope.md R12). -/
def absDiff (a b : Int) : Int := ((a - b).natAbs : Int)

/-- The number of a channel, the order of the output triple (00_scope.md R14). -/
def chanIndex : Chan → Nat
  | .r => 0
  | .g => 1
  | .b => 2

/-- The pattern tables `P[row parity][column parity]` (40_pixel_addressing.md R85); `true` is odd. -/
def tile : Pattern → Bool → Bool → Chan
  | .rggb, false, false => .r
  | .rggb, false, true => .g
  | .rggb, true, false => .g
  | .rggb, true, true => .b
  | .gbrg, false, false => .g
  | .gbrg, false, true => .b
  | .gbrg, true, false => .r
  | .gbrg, true, true => .g
  | .grbg, false, false => .g
  | .grbg, false, true => .r
  | .grbg, true, false => .b
  | .grbg, true, true => .g
  | .bggr, false, false => .b
  | .bggr, false, true => .g
  | .bggr, true, false => .g
  | .bggr, true, true => .r

/-- `color(x, y) = P[y mod 2][x mod 2]`, for every pair of integers (40_pixel_addressing.md R87). -/
def color (p : Pattern) (x y : Int) : Chan := tile p (y % 2 = 1) (x % 2 = 1)

/-- `hcol(q)`, the colour of the west and east neighbours (40_pixel_addressing.md R89). -/
def hcol (p : Pattern) (x y : Int) : Chan := color p (x + 1) y

/-- `vcol(q)`, the colour of the north and south neighbours (40_pixel_addressing.md R89). -/
def vcol (p : Pattern) (x y : Int) : Chan := color p x (y + 1)

/-- The four axial offsets, north-most first, then west to east (40_pixel_addressing.md R90). -/
def axialOffsets : List (Int × Int) := [(0, -1), (-1, 0), (1, 0), (0, 1)]

/-- The four diagonal offsets, in the same order (40_pixel_addressing.md R90). -/
def diagonalOffsets : List (Int × Int) := [(-1, -1), (1, -1), (-1, 1), (1, 1)]

/-- `NB(q, c)` (40_pixel_addressing.md R90); for the native channel the site itself, as R91 sums it. -/
def neighbours (p : Pattern) (x y : Int) (c : Chan) : List (Int × Int) :=
  if c = color p x y then [(0, 0)]
  else if color p x y = .g then
    if c = hcol p x y then [(-1, 0), (1, 0)] else [(0, -1), (0, 1)]
  else if c = .g then axialOffsets
  else diagonalOffsets

/-- What the method rules read: the parameters, pattern, depth and dimensions of the run and IN. -/
structure View where
  params : Params
  pattern : Pattern
  depth : Depth
  width : Nat
  height : Nat
  inp : Memory
  deriving DecidableEq, Repr

/-- The view of a run: the dimensions from CMD_L, the pattern and depth from its opcode (10_state.md R25). -/
def viewOf (s : State) (d : Depth) (p : Pattern) : View where
  params := s.params
  pattern := p
  depth := d
  width := s.cmd.width
  height := s.cmd.height
  inp := s.inp

/-- `MemRead(IN[i], D)` (20_memory.md R43), as a number. -/
def View.cell (v : View) (i : Nat) : Int := ((v.inp.read i).toNat : Int)

/-- `cx(x)` (20_memory.md R46). -/
def View.cx (v : View) (x : Int) : Int := min (max x 0) ((v.width : Int) - 1)

/-- `cy(y)` (20_memory.md R46). -/
def View.cy (v : View) (y : Int) : Int := min (max y 0) ((v.height : Int) - 1)

/-- `S(x, y)`, the edge-replicated sample read (20_memory.md R46). -/
def View.sample (v : View) (x y : Int) : Int :=
  v.cell (v.cy y * v.width + v.cx x).toNat

/-- `k(q, c)` (40_pixel_addressing.md R91). -/
def View.count (v : View) (x y : Int) (c : Chan) : Int := ((neighbours v.pattern x y c).length : Int)

/-- `NSUM(q, c)` (40_pixel_addressing.md R91). -/
def View.nsum (v : View) (x y : Int) (c : Chan) : Int :=
  ((neighbours v.pattern x y c).map fun o => v.sample (x + o.1) (y + o.2)).sum

/-- `BIL_c(q) = NSUM(q, c) div k(q, c)` (40_pixel_addressing.md R92). -/
def View.bil (v : View) (x y : Int) (c : Chan) : Int := v.nsum x y c / v.count x y c

/-- The eight directions in their order N, NE, E, SE, S, SW, W, NW (45_vng.md R150). -/
def directions : List (Int × Int) :=
  [(0, -1), (1, -1), (1, 0), (1, 1), (0, 1), (-1, 1), (-1, 0), (-1, -1)]

end Sys2Proof.Machine
end

