-- ==== Sys2Proof/Machine/Run.lean ====
section
/-! DEFINITION. The run: the one operation every decode command shares (41_dispatcher.md R102, R103). -/

namespace Sys2Proof.Machine

/-- The OUT cell of channel `c` at position `(x, y)` of an image with `cols` columns (20_memory.md R48). -/
def outIndex (cols x y : Nat) (c : Chan) : Nat := (y * cols + x) * 3 + chanIndex c

/-- The writes of a run body (41_dispatcher.md R103), one per position and channel. The order is no
part of the meaning: each cell is written once (20_memory.md R52, log 8). -/
def imageWrites (cols rows : Nat) (value : Nat → Nat → Chan → Sample) : List (Nat × Sample) :=
  (List.range rows).flatMap fun y =>
    (List.range cols).flatMap fun x =>
      [Chan.r, Chan.g, Chan.b].map fun c => (outIndex cols x y c, value x y c)

/-- HOST has spoilt the run in flight (20_memory.md R61). -/
def spoilt (s : State) : Bool := s.inConflict || !s.outConflicts.isEmpty

/-- What cell `i` takes at DONE: the run's value, or a free value where HOST spoilt it (20_memory.md R61). -/
def finalSample (s : State) (i : Nat) (v : Sample) : Sample :=
  if s.inConflict || s.outConflicts.contains i then Config.freeSample (s.freeCtr + i) else v

/-- The preconditions of a run (41_dispatcher.md R104; 20_memory.md R41, R43, R44; 92's constraints). START has
checked them, so no state that is reached fails one; a state that fails one gets no meaning. DESIGN CHOICE
(log 11): an 8-bit run of whose IN HOST wrote a cell during the run is not refused, whatever the value
written: 20_memory.md R61 and 70_reset_and_hazards.md R214 give every OUT cell any value, where R41 refuses a
run that reads a value above 255. -/
def runRefusal (g : Geometry) (d : Depth) (s : State) : Option Refusal :=
  if !s.params.ok then some .parametersIllegal
  else if !(s.cmd.widthLegal && s.cmd.heightLegal) then some .dimensionTooSmall
  else if s.params.inLen < nIn s.cmd then some .inOutOfRange
  else if s.params.outLen < nOutOf g s.cmd then some .outOutOfRange
  else if d = .d8 && !s.inConflict && s.inp.exceedsByte (nIn s.cmd) then some .depthMismatch
  else none

/-- OUT after the run body of a method `M` (41_dispatcher.md R103). -/
def runOut (g : Geometry) (v : View) (M : View → Chan → Int → Int → Int) (s : State) : Memory :=
  s.out.writeAll (imageWrites (outCols g s.cmd) (outRows g s.cmd) fun x y c =>
    finalSample s (outIndex (outCols g s.cmd) x y c) (BitVec.ofInt 16 (M v c x y)))

/-- The free-value counter after a run: a spoilt run has a number for each of its cells. -/
def runCtr (g : Geometry) (s : State) : Nat :=
  if spoilt s then s.freeCtr + nOutOf g s.cmd else s.freeCtr

/-- The run step of a method `M` with geometry `g` at depth `d` (41_dispatcher.md R102): every output
cell takes its final value and STATUS becomes `0b10`. -/
def runMethod (g : Geometry) (d : Depth) (p : Pattern) (M : View → Chan → Int → Int → Int)
    (s : State) : Host.Outcome State Fault Refusal :=
  match runRefusal g d s with
  | some r => .refused r
  | none => .next (s.complete (runOut g (viewOf s d p) M s) (runCtr g s))

end Sys2Proof.Machine
end

