-- ==== Sys2Proof/Machine/Ahd.lean ====
section
/-! DEFINITION. AHD (46_ahd.md). -/

namespace Sys2Proof.Machine

/-- The two directional candidates, `H` and `V` (46_ahd.md R165). -/
inductive Axis where
  | horizontal
  | vertical
  deriving DecidableEq, Repr

/-- `GK_k(x, y)`, the green plane of candidate `k` (46_ahd.md R166). -/
def View.greenPlane (v : View) (k : Axis) (x y : Int) : Int :=
  if color v.pattern x y = .g then v.sample x y
  else
    match k with
    | .horizontal =>
      clamp v.depth
        (tdiv (2 * (v.sample (x - 1) y + v.sample (x + 1) y) + 2 * v.sample x y
          - v.sample (x - 2) y - v.sample (x + 2) y) 4)
    | .vertical =>
      clamp v.depth
        (tdiv (2 * (v.sample x (y - 1) + v.sample x (y + 1)) + 2 * v.sample x y
          - v.sample x (y - 2) - v.sample x (y + 2)) 4)

/-- `DIF_k(u, v) = S(u, v) - GKc_k(u, v)`, the green read at the clamped position (46_ahd.md R167). -/
def View.greenDiff (v : View) (k : Axis) (x y : Int) : Int :=
  v.sample x y - v.greenPlane k (v.cx x) (v.cy y)

/-- Red or blue of `CAND_k(x, y)` (46_ahd.md R168). -/
def View.candColour (v : View) (k : Axis) (c : Chan) (x y : Int) : Int :=
  if c = color v.pattern x y then v.sample x y
  else if color v.pattern x y = .g then
    if c = hcol v.pattern x y then
      clamp v.depth (v.sample x y + tdiv (v.greenDiff k (x - 1) y + v.greenDiff k (x + 1) y) 2)
    else
      clamp v.depth (v.sample x y + tdiv (v.greenDiff k x (y - 1) + v.greenDiff k x (y + 1)) 2)
  else
    clamp v.depth
      (v.greenPlane k x y +
        tdiv (v.greenDiff k (x - 1) (y - 1) + v.greenDiff k (x + 1) (y - 1)
          + v.greenDiff k (x - 1) (y + 1) + v.greenDiff k (x + 1) (y + 1)) 4)

/-- Channel `c` of `CAND_k(x, y)` (46_ahd.md R168). -/
def View.candidate (v : View) (k : Axis) (c : Chan) (x y : Int) : Int :=
  match c with
  | .g => v.greenPlane k x y
  | .r | .b => v.candColour k c x y

/-- `AHD_PROJECT(R, G, B) = (L, CA, CB)` (46_ahd.md R169). -/
def project (p : Params) (r g b : Int) : Int × Int × Int :=
  match p.ahdProject with
  | .opponent => (r + 2 * g + b, r - g, b - g)
  | .platform => Config.platformProject r g b

/-- `PRJ_k(x, y)` (46_ahd.md R169). -/
def View.projected (v : View) (k : Axis) (x y : Int) : Int × Int × Int :=
  project v.params (v.candidate k .r x y) (v.candidate k .g x y) (v.candidate k .b x y)

/-- `AHD_EPS_L(D)` (46_ahd.md R170, 00_scope.md R9). -/
def ahdEpsL (p : Params) : Depth → Int
  | .d8 => p.ahdEpsL8
  | .d16 => p.ahdEpsL16

/-- `AHD_EPS_C(D)` (46_ahd.md R170, 00_scope.md R9). -/
def ahdEpsC (p : Params) : Depth → Int
  | .d8 => p.ahdEpsC8
  | .d16 => p.ahdEpsC16

/-- Two projected pixels are close: all three differences within their bounds (46_ahd.md R170). -/
def closePixels (p : Params) (d : Depth) (a b : Int × Int × Int) : Bool :=
  absDiff b.1 a.1 ≤ ahdEpsL p d && absDiff b.2.1 a.2.1 ≤ ahdEpsC p d && absDiff b.2.2 a.2.2 ≤ ahdEpsC p d

/-- `HOM_k(x, y)` (46_ahd.md R170). -/
def View.homogeneity (v : View) (k : Axis) (x y : Int) : Nat :=
  (directions.filter fun d =>
    closePixels v.params v.depth (v.projected k x y)
      (v.projected k (v.cx (x + d.1)) (v.cy (y + d.2)))).length

/-- `AHD_c(x, y)` (46_ahd.md R171). -/
def ahd (v : View) (c : Chan) (x y : Int) : Int :=
  if v.homogeneity .vertical x y ≤ v.homogeneity .horizontal x y then v.candidate .horizontal c x y
  else v.candidate .vertical c x y

/-- DECODE.AHD.8 (46_ahd.md R171). -/
def execAhd8 (p : Pattern) (s : State) : Host.Outcome State Fault Refusal :=
  runMethod .full .d8 p ahd s

/-- DECODE.AHD.16 (46_ahd.md R171). -/
def execAhd16 (p : Pattern) (s : State) : Host.Outcome State Fault Refusal :=
  runMethod .full .d16 p ahd s

end Sys2Proof.Machine
end

