-- ==== Sys2Proof/Machine/Downsample.lean ====
section
/-! DEFINITION. DOWNSAMPLE (44_downsample.md). -/

namespace Sys2Proof.Machine

/-- The positions `(a, b)` of a tile, `a` the column and `b` the row, that have colour `c`
(44_downsample.md R140): one for red and for blue, two for green. -/
def tileSites (p : Pattern) (c : Chan) : List (Nat × Nat) :=
  [(0, 0), (1, 0), (0, 1), (1, 1)].filter fun o => tile p (o.2 = 1) (o.1 = 1) = c

/-- `DOWN_c(i, j)` (44_downsample.md R140): the truncated mean of the tile's samples of the channel, which
for red and blue is the one sample itself. -/
def downsample (v : View) (c : Chan) (i j : Int) : Int :=
  ((tileSites v.pattern c).map fun o => v.cell ((2 * j + o.2) * v.width + (2 * i + o.1)).toNat).sum /
    ((tileSites v.pattern c).length : Int)

/-- DECODE.DOWNSAMPLE.8 (44_downsample.md R140 to R142). -/
def execDownsample8 (p : Pattern) (s : State) : Host.Outcome State Fault Refusal :=
  runMethod .half .d8 p downsample s

/-- DECODE.DOWNSAMPLE.16 (44_downsample.md R140 to R142). -/
def execDownsample16 (p : Pattern) (s : State) : Host.Outcome State Fault Refusal :=
  runMethod .half .d16 p downsample s

end Sys2Proof.Machine
end

