-- ==== Sys2Proof/Machine/HqlinearEdgesense.lean ====
section
/-! DEFINITION. HQLINEAR and EDGESENSE (43_hqlinear_edgesense.md). -/

namespace Sys2Proof.Machine

/-- `LAP(x, y)`, the Laplacian of the native channel (43_hqlinear_edgesense.md R125). -/
def View.laplacian (v : View) (x y : Int) : Int :=
  4 * v.sample x y - v.sample (x - 2) y - v.sample (x + 2) y - v.sample x (y - 2) - v.sample x (y + 2)

/-- `HQ_c(x, y)` (43_hqlinear_edgesense.md R126). -/
def hqlinear (v : View) (c : Chan) (x y : Int) : Int :=
  if c = color v.pattern x y then v.sample x y
  else
    clamp v.depth
      (tdiv (4 / v.count x y c * v.params.hqDen * v.nsum x y c + v.params.hqNum * v.laplacian x y)
        (4 * v.params.hqDen))

/-- `EDGE_EPS(D)` (43_hqlinear_edgesense.md R128, 00_scope.md R9). -/
def edgeEps (p : Params) : Depth → Int
  | .d8 => p.edgeEps8
  | .d16 => p.edgeEps16

/-- Green at a red or blue site (43_hqlinear_edgesense.md R128). -/
def View.edgeGreen (v : View) (x y : Int) : Int :=
  let gW := v.sample (x - 1) y
  let gE := v.sample (x + 1) y
  let gN := v.sample x (y - 1)
  let gS := v.sample x (y + 1)
  let dH := absDiff gW gE
  let dV := absDiff gN gS
  if absDiff dH dV ≤ edgeEps v.params v.depth then (gW + gE + gN + gS) / 4
  else if dH < dV then (gW + gE) / 2
  else (gN + gS) / 2

/-- `EDGE_c(x, y)` (43_hqlinear_edgesense.md R128). -/
def edgesense (v : View) (c : Chan) (x y : Int) : Int :=
  if c = color v.pattern x y then v.sample x y
  else if c = .g then v.edgeGreen x y
  else v.bil x y c

/-- DECODE.HQLINEAR.8 (43_hqlinear_edgesense.md R126). -/
def execHqlinear8 (p : Pattern) (s : State) : Host.Outcome State Fault Refusal :=
  runMethod .full .d8 p hqlinear s

/-- DECODE.EDGESENSE.8 (43_hqlinear_edgesense.md R128). -/
def execEdgesense8 (p : Pattern) (s : State) : Host.Outcome State Fault Refusal :=
  runMethod .full .d8 p edgesense s

/-- DECODE.HQLINEAR.16 (43_hqlinear_edgesense.md R126). -/
def execHqlinear16 (p : Pattern) (s : State) : Host.Outcome State Fault Refusal :=
  runMethod .full .d16 p hqlinear s

/-- DECODE.EDGESENSE.16 (43_hqlinear_edgesense.md R128). -/
def execEdgesense16 (p : Pattern) (s : State) : Host.Outcome State Fault Refusal :=
  runMethod .full .d16 p edgesense s

end Sys2Proof.Machine
end

