-- ==== Sys2Proof/Machine/NearestSimpleBilinear.lean ====
section
/-! DEFINITION. NEAREST, SIMPLE and BILINEAR (42_nearest_simple_bilinear.md). -/

namespace Sys2Proof.Machine

/-- `Cand`: the in-range positions `(u, v)` of colour `c` (42_nearest_simple_bilinear.md R110). -/
def View.candidates (v : View) (c : Chan) : List (Nat × Nat) :=
  ((List.range v.height).flatMap fun y => (List.range v.width).map fun x => (x, y)).filter
    fun q => color v.pattern q.1 q.2 = c

/-- `dist2(u, v)` (42_nearest_simple_bilinear.md R110). -/
def dist2 (x y : Int) (q : Nat × Nat) : Int := (q.1 - x) ^ 2 + (q.2 - y) ^ 2

/-- The triple `(dist2(u, v), v, u)` of `q` is lexicographically below that of `r`
(42_nearest_simple_bilinear.md R110). -/
def nearer (x y : Int) (q r : Nat × Nat) : Bool :=
  dist2 x y q < dist2 x y r ||
    (dist2 x y q = dist2 x y r && (q.2 < r.2 || (q.2 = r.2 && q.1 < r.1)))

/-- The candidate that minimises the triple (42_nearest_simple_bilinear.md R110); none when there is none. -/
def nearestOf (x y : Int) : List (Nat × Nat) → Option (Nat × Nat)
  | [] => none
  | q :: t => some (t.foldl (fun best r => if nearer x y r best then r else best) q)

/-- `NEAREST_c(x, y)` (42_nearest_simple_bilinear.md R110). There is always a candidate when `W, H >= 2`
(R110), which every run requires; the last arm is never reached by one. -/
def nearest (v : View) (c : Chan) (x y : Int) : Int :=
  match nearestOf x y (v.candidates c) with
  | some q => v.cell (q.2 * v.width + q.1)
  | none => 0

/-- `SIMPLE_c(x, y)` (42_nearest_simple_bilinear.md R112). -/
def simple (v : View) (c : Chan) (x y : Int) : Int :=
  if c = color v.pattern x y then v.sample x y
  else v.nsum x y c / v.count x y c

/-- `BILINEAR_c(x, y)` (42_nearest_simple_bilinear.md R114). -/
def bilinear (v : View) (c : Chan) (x y : Int) : Int :=
  if c = color v.pattern x y then v.sample x y
  else v.bil x y c

/-- DECODE.NEAREST.8 (42_nearest_simple_bilinear.md R110). -/
def execNearest8 (p : Pattern) (s : State) : Host.Outcome State Fault Refusal :=
  runMethod .full .d8 p nearest s

/-- DECODE.SIMPLE.8 (42_nearest_simple_bilinear.md R112). -/
def execSimple8 (p : Pattern) (s : State) : Host.Outcome State Fault Refusal :=
  runMethod .full .d8 p simple s

/-- DECODE.BILINEAR.8 (42_nearest_simple_bilinear.md R114). -/
def execBilinear8 (p : Pattern) (s : State) : Host.Outcome State Fault Refusal :=
  runMethod .full .d8 p bilinear s

/-- DECODE.NEAREST.16 (42_nearest_simple_bilinear.md R110). -/
def execNearest16 (p : Pattern) (s : State) : Host.Outcome State Fault Refusal :=
  runMethod .full .d16 p nearest s

/-- DECODE.SIMPLE.16 (42_nearest_simple_bilinear.md R112). -/
def execSimple16 (p : Pattern) (s : State) : Host.Outcome State Fault Refusal :=
  runMethod .full .d16 p simple s

/-- DECODE.BILINEAR.16 (42_nearest_simple_bilinear.md R114). -/
def execBilinear16 (p : Pattern) (s : State) : Host.Outcome State Fault Refusal :=
  runMethod .full .d16 p bilinear s

end Sys2Proof.Machine
end

