-- ==== Sys2Proof/Machine/Vng.lean ====
section
/-! DEFINITION. VNG (45_vng.md). -/

namespace Sys2Proof.Machine

/-- `grad_d(x, y)` (45_vng.md R151). -/
def View.grad (v : View) (x y : Int) (d : Int × Int) : Int :=
  absDiff (v.sample (x + 2 * d.1) (y + 2 * d.2)) (v.sample x y) +
    absDiff (v.sample (x + d.1) (y + d.2)) (v.sample (x - d.1) (y - d.2))

/-- The least of a list of numbers (00_scope.md R12: of a finite non-empty list). -/
def leastOf : List Int → Int
  | [] => 0
  | a :: t => t.foldl min a

/-- The greatest of a list of numbers (00_scope.md R12: of a finite non-empty list). -/
def greatestOf : List Int → Int
  | [] => 0
  | a :: t => t.foldl max a

/-- `gmin` (45_vng.md R152). -/
def View.gradMin (v : View) (x y : Int) : Int := leastOf (directions.map (v.grad x y))

/-- `gmax` (45_vng.md R152). -/
def View.gradMax (v : View) (x y : Int) : Int := greatestOf (directions.map (v.grad x y))

/-- `valid[d]` (45_vng.md R152, R153). -/
def View.validDirection (v : View) (x y : Int) (d : Int × Int) : Bool :=
  v.params.vngDen * v.grad x y d ≤
    v.params.vngK1Num * v.gradMin x y + v.params.vngK2Num * (v.gradMax x y - v.gradMin x y)

/-- The valid directions, in their order (45_vng.md R152). -/
def View.validDirections (v : View) (x y : Int) : List (Int × Int) :=
  directions.filter (v.validDirection x y)

/-- `EST_c(d)` (45_vng.md R154). -/
def View.estimate (v : View) (c : Chan) (x y : Int) (d : Int × Int) : Int :=
  v.bil (x + d.1) (y + d.2) c

/-- `VNG_c(x, y)` (45_vng.md R152). -/
def vng (v : View) (c : Chan) (x y : Int) : Int :=
  if c = color v.pattern x y then v.sample x y
  else
    ((v.validDirections x y).map (v.estimate c x y)).sum / ((v.validDirections x y).length : Int)

/-- DECODE.VNG.8 (45_vng.md R152). -/
def execVng8 (p : Pattern) (s : State) : Host.Outcome State Fault Refusal :=
  runMethod .full .d8 p vng s

/-- DECODE.VNG.16 (45_vng.md R152). -/
def execVng16 (p : Pattern) (s : State) : Host.Outcome State Fault Refusal :=
  runMethod .full .d16 p vng s

end Sys2Proof.Machine
end

