-- ==== Sys2Proof/Machine/Dispatch.lean ====
section
/-! DEFINITION. The dispatcher (41_dispatcher.md R100): one arm per command, no default. -/

namespace Sys2Proof.Machine

def exec (i : Instr) (s : State) : Host.Outcome State Fault Refusal :=
  match i with
  | .nearest8 p => Sys2Proof.Machine.execNearest8 p s
  | .simple8 p => Sys2Proof.Machine.execSimple8 p s
  | .bilinear8 p => Sys2Proof.Machine.execBilinear8 p s
  | .hqlinear8 p => Sys2Proof.Machine.execHqlinear8 p s
  | .downsample8 p => Sys2Proof.Machine.execDownsample8 p s
  | .edgesense8 p => Sys2Proof.Machine.execEdgesense8 p s
  | .vng8 p => Sys2Proof.Machine.execVng8 p s
  | .ahd8 p => Sys2Proof.Machine.execAhd8 p s
  | .nearest16 p => Sys2Proof.Machine.execNearest16 p s
  | .simple16 p => Sys2Proof.Machine.execSimple16 p s
  | .bilinear16 p => Sys2Proof.Machine.execBilinear16 p s
  | .hqlinear16 p => Sys2Proof.Machine.execHqlinear16 p s
  | .downsample16 p => Sys2Proof.Machine.execDownsample16 p s
  | .edgesense16 p => Sys2Proof.Machine.execEdgesense16 p s
  | .vng16 p => Sys2Proof.Machine.execVng16 p s
  | .ahd16 p => Sys2Proof.Machine.execAhd16 p s

end Sys2Proof.Machine
end

