-- ==== Sys2Proof/Machine/Engine.lean ====
section
/-! DEFINITION. The turns of the two agents (00_scope.md R7, R8): ENGINE's run step, HOST's accesses, the
reset event; and the placing of a command as the next one to run. -/

namespace Sys2Proof.Machine

/-- ENGINE's turn: with STATUS = `0b01` the run step of the command in CMD_L (41_dispatcher.md R102), else
nothing (60_exceptions.md R198). START has refused a CMD_L that decodes to no command. -/
def engineTurn (s : State) : Host.Outcome State Fault Refusal :=
  if s.status = statusBusy then
    match decode s.cmd.ctrl with
    | .ok i => exec i s
    | .error .reservedCtrlBits => .refused .reservedCtrlBits
  else
    .next s

/-- HOST in its polling loop (30_encoding.md R78; 70_reset_and_hazards.md R216): a read of STATUS with DONE
ends it; while the run is in flight the turn goes to ENGINE and HOST polls again; with no run HOST polls
for ever. `rest` are the turns after the loop. The reads that returned DONE = 0 are not recorded: their
number is not determined (95_test_vectors.md P1). -/
def waitTurn (s : State) (rest : List Move) : Host.Outcome State Fault Refusal :=
  if done s then readRegister (s.setMoves rest) 4
  else engineTurn s

/-- The turn at the head of the list, with the state after it is taken off (log 4). -/
def moveTurn (m : Move) (s : State) : Host.Outcome State Fault Refusal :=
  match m with
  | .wr number value => writeRegister s number value
  | .rd number => readRegister s number
  | .wrIn index value => writeIn s index value
  | .rdIn index => readIn s index
  | .wrOut index value => writeOut s index value
  | .rdOut index => readOut s index
  | .reset => .next (resetEvent s)
  | .engine => engineTurn s
  | .wait => waitTurn (s.setMoves (.wait :: s.moves)) s.moves

/-- The next turn: the head of the list, or ENGINE's when HOST has nothing more to do. -/
def nextTurn (s : State) : Host.Outcome State Fault Refusal :=
  match s.moves with
  | [] => engineTurn s
  | m :: rest => moveTurn m (s.setMoves rest)

/-- IN with the four cells of a 2x2 mosaic fit for an 8-bit run: a cell above 255 is set to 0. -/
def fitForByte (m : Memory) : Memory :=
  m.writeAll ((List.range 4).map fun i => (i, if 255 < (m.read i).toNat then 0 else m.read i))

/-- The state in which the command with CTRL value `w` runs next: latched in CMD_L with the least legal
dimensions, BUSY, unspoilt, on a legal platform whose spaces can hold it, ENGINE's turn first (log 10). -/
def placeCommand (s : State) (w : Nat) : State :=
  let k : Command := { ctrl := BitVec.ofNat 8 w, width := Config.minDim, height := Config.minDim }
  let q : Params := if s.params.ok then s.params else Params.reference
  let p : Params := { q with inLen := max q.inLen 4, outLen := max q.outLen 12 }
  { (s.latch k) with
    params := p, inp := fitForByte s.inp, moves := .engine :: s.moves
    inConflict := false, outConflicts := [] }

end Sys2Proof.Machine
end

