-- ==== Sys2Proof/Safety.lean ====
section
/-! DEFINITION. What claims are stated in: the machine's invariant, the safe step, and the states in which a
command's run is fit to start. -/

namespace Sys2Proof.Machine

/-- A step that answers a next state: nothing was refused (60_exceptions.md R187). -/
def State.StepsSafely (s : State) : Prop := ∃ t, step s = .next t

/-- The invariant of the machine, kept by every step. -/
structure State.Inv (s : State) : Prop where
  /-- The instance's parameters keep the constraints of 92_eei_decisions.md. -/
  paramsOk : s.params.ok = true
  /-- STATUS `0b11` never occurs (10_state.md R27). -/
  statusLegal : s.status ≠ 0b11#2
  /-- WIDTH fits its register (10_state.md R21). -/
  widthFits : s.width < 2 ^ s.params.dimBits
  /-- HEIGHT fits its register (10_state.md R22). -/
  heightFits : s.height < 2 ^ s.params.dimBits
  /-- IN is in canonical form. -/
  inpWf : Memory.wf s.inp
  /-- OUT is in canonical form. -/
  outWf : Memory.wf s.out
  /-- IN has no cell at or above IN_LEN (20_memory.md R40). -/
  inpBound : ∀ c ∈ s.inp, c.1 < s.params.inLen
  /-- OUT has no cell at or above OUT_LEN (20_memory.md R40). -/
  outBound : ∀ c ∈ s.out, c.1 < s.params.outLen
  /-- Every run whose window is open passed START's checks (41_dispatcher.md R101). -/
  windowsLegal : ∀ k ∈ s.windows,
    k.wellFormed = true ∧ nIn k ≤ s.params.inLen ∧ nOut k ≤ s.params.outLen
  /-- An unspoilt 8-bit run in flight reads bytes (20_memory.md R41). -/
  depthOk : busy s = true → s.inConflict = false → commandDepth s.cmd = .d8 →
    s.inp.exceedsByte (nIn s.cmd) = false
  /-- Conflicts are of a run in flight (20_memory.md R61). -/
  inConflictBusy : s.inConflict = true → busy s = true
  /-- Conflicts are of a run in flight (20_memory.md R61). -/
  outConflictsBusy : s.outConflicts ≠ [] → busy s = true
  /-- The spoilt OUT cells are listed rising, and belong to the run. -/
  outConflictsWf : s.outConflicts.Pairwise (· < ·) ∧ ∀ i ∈ s.outConflicts, i < nOut s.cmd

/-- A run of geometry `g` fits the instance: legal parameters and dimensions, spaces large enough
(41_dispatcher.md R104, 20_memory.md R50), both spaces in canonical form. -/
structure RunFits (g : Geometry) (s : State) : Prop where
  paramsOk : s.params.ok = true
  widthOk : 2 ≤ s.cmd.width
  heightOk : 2 ≤ s.cmd.height
  inFits : nIn s.cmd ≤ s.params.inLen
  outFits : nOutOf g s.cmd ≤ s.params.outLen
  inpWf : Memory.wf s.inp
  outWf : Memory.wf s.out

/-- The samples of the mosaic suit the depth: at `D = 8` every IN cell below `N_in` is at most 255
(20_memory.md R41). -/
def DepthFits (d : Depth) (s : State) : Prop :=
  d = .d8 → ∀ i < nIn s.cmd, (s.inp.read i).toNat ≤ 255

/-- A run that fits, at a depth its mosaic suits, with no cell spoilt by HOST (20_memory.md R61): when the
rules give every output cell its value. -/
structure RunReady (g : Geometry) (d : Depth) (s : State) : Prop extends RunFits g s where
  depthOk : DepthFits d s
  inClean : s.inConflict = false
  outClean : s.outConflicts = []

/-- The dimensions and samples a method may be asked for: at least 2 by 2, and every cell below `N_in` within
`[0, MAX]` (00_scope.md R17, 41_dispatcher.md R104). -/
structure View.Legal (v : View) : Prop where
  paramsOk : v.params.ok = true
  widthOk : 2 ≤ v.width
  heightOk : 2 ≤ v.height
  samplesOk : ∀ i < v.width * v.height, v.cell i ≤ maxSample v.depth

/-- The method functions `M` of the dispatcher's table (41_dispatcher.md R100). -/
def methodValue : Method → View → Chan → Int → Int → Int
  | .nearest => nearest
  | .simple => simple
  | .bilinear => bilinear
  | .hqlinear => hqlinear
  | .downsample => downsample
  | .edgesense => edgesense
  | .vng => vng
  | .ahd => ahd

end Sys2Proof.Machine

namespace Sys2Proof

/-- The geometry of a command's output (41_dispatcher.md R100). -/
def Instr.geometry (i : Instr) : Machine.Geometry := Machine.geometryOf i.method

end Sys2Proof

namespace Sys2Proof.Machine

/-- The command completes, and everything it does: STATUS becomes `0b10` (41_dispatcher.md R102), each OUT
cell of its image holds a value `z` with `R view c x y z` (R103), every OUT cell at or above `N_out` reads as
before, and no other field changes (20_memory.md R53) but the model's list of unread runs (log 6). -/
def RunsTo (i : Instr) (s : State) (R : View → Chan → Nat → Nat → Int → Prop) : Prop :=
  ∃ t, exec i s = .next t ∧ t = { s with status := statusDone, out := t.out, unread := t.unread } ∧
    (∀ x y c, x < outCols i.geometry s.cmd → y < outRows i.geometry s.cmd →
      R (viewOf s i.depth i.pattern) c x y
        ((t.out.read (outIndex (outCols i.geometry s.cmd) x y c)).toNat : Int)) ∧
    ∀ a, nOutOf i.geometry s.cmd ≤ a → t.out.read a = s.out.read a

end Sys2Proof.Machine
end

