-- ==== Sys2Proof/Certificates/Slice0/Obligations.lean ====
section
/-! DEFINITION. The statements about the machine, for the provers. -/

open Sys2Proof Sys2Proof.Machine

/-! ### The encoding -/

/-- 30_encoding.md R71, R73, R78: the decoder reads back every command from the CTRL value that spells it. -/
def Obligations.EncodedCommandDecodes : Prop :=
  ∀ i : Instr, decode (encode i) = .ok i

/-- 30_encoding.md R73: a CTRL value has one meaning, and the encoder gives it back. -/
def Obligations.DecodedCtrlIsItsEncoding : Prop :=
  ∀ (c : BitVec 8) (i : Instr), decode c = .ok i → encode i = c

/-- 30_encoding.md R72: the CTRL values that name no command are the 192 with `bits[7:6] != 0`, and a
START with one is refused. -/
def Obligations.ReservedCtrlBitsNameNoCommand : Prop :=
  (∀ c : BitVec 8, decode c = .error .reservedCtrlBits ↔ c.extractLsb' 6 2 ≠ 0) ∧
  ((List.range 256).filter fun n =>
    (decode (BitVec.ofNat 8 n)).isOk = false).length = 192 ∧
  ∀ s : State, s.widthWritten = true → s.heightWritten = true → s.ctrlWritten = true →
    busy s = false → s.ctrl.extractLsb' 6 2 ≠ 0 →
    writeRegister s 3 1 = .refused .reservedCtrlBits

/-- 30_encoding.md R66 to R69: words of 95_test_vectors.md V-ENC, written out bit by bit, decode to their
commands. -/
def Obligations.WrittenOutCtrlWordsDecode : Prop :=
  decode 0b00000000#8 = .ok (.nearest8 .rggb) ∧ decode 0b00000010#8 = .ok (.bilinear8 .rggb) ∧
  decode 0b00001100#8 = .ok (.downsample8 .gbrg) ∧ decode 0b00010011#8 = .ok (.hqlinear8 .grbg) ∧
  decode 0b00011110#8 = .ok (.vng8 .bggr) ∧ decode 0b00100101#8 = .ok (.edgesense16 .rggb) ∧
  decode 0b00101000#8 = .ok (.nearest16 .gbrg) ∧ decode 0b00111111#8 = .ok (.ahd16 .bggr)

/-- 30_encoding.md R78, R65, 41_dispatcher.md R101: the four register writes of a DECODE pseudo-instruction, made
by an idle or finished engine whose spaces suit it, latch the command that spells it, and the engine's next
turn runs exactly that command. -/
def Obligations.DecodePseudoInstructionRunsItsCommand : Prop :=
  ∀ (i : Instr) (w h : Nat) (s : State),
    busy s = false → s.moves = decodeMoves i w h ++ [.engine] →
    2 ≤ w → 2 ≤ h → w < 2 ^ s.params.dimBits → h < 2 ^ s.params.dimBits →
    w * h ≤ s.params.inLen →
    nOutOf i.geometry { ctrl := encode i, width := w, height := h } ≤ s.params.outLen →
    Memory.wf s.inp → (i.depth = .d8 → ∀ a < w * h, (s.inp.read a).toNat ≤ 255) →
    ∃ t : State, Host.Core.run core 4 s = .next t ∧
      t.cmd = { ctrl := encode i, width := w, height := h } ∧ t.status = statusBusy ∧
      t.unread = s.unread ∧ t.inp = s.inp ∧ t.out = s.out ∧
      step t = exec i (t.setMoves [])

/-! ### Pixel addressing and the view -/

/-- 40_pixel_addressing.md R85: the four tables, by the colours of the tile at `(0,0)`. -/
def Obligations.PatternTablesGiveTileColours : Prop :=
  (∀ p : Pattern, (color p 0 0, color p 1 0, color p 0 1, color p 1 1) =
    match p with
    | .rggb => (.r, .g, .g, .b)
    | .gbrg => (.g, .b, .r, .g)
    | .grbg => (.g, .r, .b, .g)
    | .bggr => (.b, .g, .g, .r))

/-- 40_pixel_addressing.md R93. -/
def Obligations.ColourHasPeriodTwo : Prop :=
  ∀ (p : Pattern) (x y a b : Int), color p (x + 2 * a) (y + 2 * b) = color p x y

/-- 40_pixel_addressing.md R88 (a), (b), (c). -/
def Obligations.BayerNeighbourhoods : Prop :=
  ∀ (p : Pattern) (x y : Int),
    (let l := [color p x y, color p (x + 1) y, color p x (y + 1), color p (x + 1) (y + 1)]
     l.count .r = 1 ∧ l.count .b = 1 ∧ l.count .g = 2 ∧
      ((color p x y = .g ∧ color p (x + 1) (y + 1) = .g) ∨
        (color p (x + 1) y = .g ∧ color p x (y + 1) = .g))) ∧
    (color p x y = .g →
      color p (x - 1) y = color p (x + 1) y ∧ color p (x + 1) y ≠ .g ∧
      color p x (y - 1) = color p x (y + 1) ∧ color p x (y + 1) ≠ .g ∧
      color p (x + 1) y ≠ color p x (y + 1) ∧
      ∀ o ∈ diagonalOffsets, color p (x + o.1) (y + o.2) = .g) ∧
    (color p x y ≠ .g →
      (∀ o ∈ axialOffsets, color p (x + o.1) (y + o.2) = .g) ∧
      ∀ o ∈ diagonalOffsets,
        color p (x + o.1) (y + o.2) = if color p x y = .r then .b else .r)

/-- 20_memory.md R46, R47: every sample read is of a cell below `N_in`; in range it is cell `y * W + x`, out of
range that of the nearest row and column, each coordinate clamped on its own. -/
def Obligations.SampleReadsReplicateEdges : Prop :=
  ∀ v : View, 1 ≤ v.width → 1 ≤ v.height →
    (∀ x y : Nat, x < v.width → y < v.height → v.sample x y = v.cell (y * v.width + x)) ∧
    (∀ x y : Int, x < 0 → v.sample x y = v.sample 0 y) ∧
    (∀ x y : Int, (v.width : Int) ≤ x → v.sample x y = v.sample (v.width - 1) y) ∧
    (∀ x y : Int, y < 0 → v.sample x y = v.sample x 0) ∧
    (∀ x y : Int, (v.height : Int) ≤ y → v.sample x y = v.sample x (v.height - 1)) ∧
    ∀ x y : Int, ∃ i < v.width * v.height, v.sample x y = v.cell i

/-! ### What the sixteen commands compute -/

/-- 42_nearest_simple_bilinear.md R110: both NEAREST commands complete, and each output sample is the mosaic
sample of its channel that minimises `(dist2, row, column)`. -/
def Obligations.NearestTakesClosestSample : Prop :=
  ∀ (p : Pattern) (s : State) (i : Instr), (i = .nearest8 p ∨ i = .nearest16 p) →
    RunReady .full i.depth s →
    RunsTo i s fun v c x y z =>
      ∃ a b : Nat, a < v.width ∧ b < v.height ∧ color v.pattern a b = c ∧ z = v.cell (b * v.width + a) ∧
        ∀ a' b' : Nat, a' < v.width → b' < v.height → color v.pattern a' b' = c →
          let d := ((a : Int) - x) ^ 2 + ((b : Int) - y) ^ 2
          let d' := ((a' : Int) - x) ^ 2 + ((b' : Int) - y) ^ 2
          d < d' ∨ (d = d' ∧ (b < b' ∨ (b = b' ∧ a ≤ a')))

/-- 42_nearest_simple_bilinear.md R112: both SIMPLE commands complete; the native sample, or the truncated
average of the canonical neighbours. -/
def Obligations.SimpleAveragesAdjacentSamples : Prop :=
  ∀ (p : Pattern) (s : State) (i : Instr), (i = .simple8 p ∨ i = .simple16 p) →
    RunReady .full i.depth s →
    RunsTo i s fun v c x y z =>
      z = if c = color v.pattern x y then v.sample x y
        else ((neighbours v.pattern x y c).map fun o => v.sample (x + o.1) (y + o.2)).sum /
          ((neighbours v.pattern x y c).length : Int)

/-- 42_nearest_simple_bilinear.md R114: both BILINEAR commands complete; red and blue at a green site from two
samples, green at a red or blue site from the four axial ones, the opposite colour from the four diagonal ones. -/
def Obligations.BilinearAveragesSymmetricNeighbours : Prop :=
  ∀ (p : Pattern) (s : State) (i : Instr), (i = .bilinear8 p ∨ i = .bilinear16 p) →
    RunReady .full i.depth s →
    RunsTo i s fun v c x y z =>
      z = if c = color v.pattern x y then v.sample x y
        else if color v.pattern x y = .g then
          if c = color v.pattern (x + 1) y then (v.sample (x - 1) y + v.sample (x + 1) y) / 2
          else (v.sample x (y - 1) + v.sample x (y + 1)) / 2
        else if c = .g then
          (v.sample x (y - 1) + v.sample (x - 1) y + v.sample (x + 1) y + v.sample x (y + 1)) / 4
        else
          (v.sample (x - 1) (y - 1) + v.sample (x + 1) (y - 1) + v.sample (x - 1) (y + 1) +
            v.sample (x + 1) (y + 1)) / 4

/-- 43_hqlinear_edgesense.md R125, R126: both HQLINEAR commands complete; the bilinear base and the Laplacian
correction in one division, clamped. -/
def Obligations.HqlinearCorrectsByLaplacian : Prop :=
  ∀ (p : Pattern) (s : State) (i : Instr), (i = .hqlinear8 p ∨ i = .hqlinear16 p) →
    RunReady .full i.depth s →
    RunsTo i s fun v c x y z =>
      let lap := 4 * v.sample x y - v.sample (x - 2) y - v.sample (x + 2) y - v.sample x (y - 2) -
        v.sample x (y + 2)
      let num := 4 / v.count x y c * v.params.hqDen * v.nsum x y c + v.params.hqNum * lap
      let q := Int.tdiv num (4 * v.params.hqDen)
      z = if c = color v.pattern x y then v.sample x y
        else if q < 0 then 0
        else if maxSample v.depth < q then maxSample v.depth
        else q

/-- 44_downsample.md R140, R141: both DOWNSAMPLE commands complete; `W div 2` by `H div 2` triples from OUT
index 0, red and blue the tile's own samples, green the truncated mean of its two. -/
def Obligations.DownsampleReducesEachTile : Prop :=
  ∀ (p : Pattern) (s : State) (i : Instr), (i = .downsample8 p ∨ i = .downsample16 p) →
    RunReady .half i.depth s →
    outCols i.geometry s.cmd = s.cmd.width / 2 ∧ outRows i.geometry s.cmd = s.cmd.height / 2 ∧
    RunsTo i s fun v c x y z =>
      let at' (a b : Nat) := v.cell ((2 * y + b) * v.width + (2 * x + a))
      z = match v.pattern, c with
        | .rggb, .r => at' 0 0
        | .rggb, .g => (at' 1 0 + at' 0 1) / 2
        | .rggb, .b => at' 1 1
        | .gbrg, .r => at' 0 1
        | .gbrg, .g => (at' 0 0 + at' 1 1) / 2
        | .gbrg, .b => at' 1 0
        | .grbg, .r => at' 1 0
        | .grbg, .g => (at' 0 0 + at' 1 1) / 2
        | .grbg, .b => at' 0 1
        | .bggr, .r => at' 1 1
        | .bggr, .g => (at' 1 0 + at' 0 1) / 2
        | .bggr, .b => at' 0 0

/-- 43_hqlinear_edgesense.md R128: both EDGESENSE commands complete; green at red and blue sites along the
axis of the smaller gradient, all four within epsilon, the rest as BILINEAR. -/
def Obligations.EdgesenseFollowsLowerGradient : Prop :=
  ∀ (p : Pattern) (s : State) (i : Instr), (i = .edgesense8 p ∨ i = .edgesense16 p) →
    RunReady .full i.depth s →
    RunsTo i s fun v c x y z =>
      let gW := v.sample (x - 1) y
      let gE := v.sample (x + 1) y
      let gN := v.sample x (y - 1)
      let gS := v.sample x (y + 1)
      let dH := abs (gW - gE)
      let dV := abs (gN - gS)
      let eps : Int := match v.depth with
        | .d8 => v.params.edgeEps8
        | .d16 => v.params.edgeEps16
      z = if c = color v.pattern x y then v.sample x y
        else if c = .g then
          if abs (dH - dV) ≤ eps then (gW + gE + gN + gS) / 4
          else if dH < dV then (gW + gE) / 2
          else (gN + gS) / 2
        else v.nsum x y c / v.count x y c

/-- 45_vng.md R151, R152, R153, R154: both VNG commands complete; the truncated mean of the bilinear estimates at
the neighbours of the valid directions, of which there is at least one. -/
def Obligations.VngAveragesValidDirections : Prop :=
  ∀ (p : Pattern) (s : State) (i : Instr), (i = .vng8 p ∨ i = .vng16 p) →
    RunReady .full i.depth s →
    RunsTo i s fun v c x y z =>
      let g (d : Int × Int) := abs (v.sample (x + 2 * d.1) (y + 2 * d.2) - v.sample x y) +
        abs (v.sample (x + d.1) (y + d.2) - v.sample (x - d.1) (y - d.2))
      (c = color v.pattern x y ∧ z = v.sample x y) ∨
      (c ≠ color v.pattern x y ∧ ∃ gmin gmax : Int,
        (∃ d ∈ directions, g d = gmin) ∧ (∀ d ∈ directions, gmin ≤ g d) ∧
        (∃ d ∈ directions, g d = gmax) ∧ (∀ d ∈ directions, g d ≤ gmax) ∧
        let valid := directions.filter fun d =>
          v.params.vngDen * g d ≤ v.params.vngK1Num * gmin + v.params.vngK2Num * (gmax - gmin)
        1 ≤ valid.length ∧
        z = (valid.map fun d => v.nsum (x + d.1) (y + d.2) c / v.count (x + d.1) (y + d.2) c).sum /
          (valid.length : Int))

/-- 46_ahd.md R171: both AHD commands complete; the whole triple of a position comes from the candidate with the
higher homogeneity, from the horizontal one on equal scores. -/
def Obligations.AhdTakesMoreHomogeneousCandidate : Prop :=
  ∀ (p : Pattern) (s : State) (i : Instr), (i = .ahd8 p ∨ i = .ahd16 p) →
    RunReady .full i.depth s →
    RunsTo i s fun v c x y z =>
      (v.homogeneity .vertical x y ≤ v.homogeneity .horizontal x y → z = v.candidate .horizontal c x y) ∧
      (v.homogeneity .horizontal x y < v.homogeneity .vertical x y → z = v.candidate .vertical c x y)

/-- 46_ahd.md R166, R167, R168: the candidate images, `tdiv` and `clamp` spelt out. Green is filtered along the
candidate's axis; red and blue are rebuilt from the colour differences of the canonical neighbours; the
native channel is passed through. -/
def Obligations.AhdCandidateImages : Prop :=
  ∀ (v : View) (k : Axis) (c : Chan) (x y : Int),
    let fit (q : Int) := max 0 (min (maxSample v.depth) q)
    let dif (a b : Int) := v.sample a b - v.candidate k .g (v.cx a) (v.cy b)
    v.candidate k c x y =
      if c = color v.pattern x y then v.sample x y
      else if c = .g then
        match k with
        | .horizontal =>
          fit (Int.tdiv (2 * (v.sample (x - 1) y + v.sample (x + 1) y) + 2 * v.sample x y -
            v.sample (x - 2) y - v.sample (x + 2) y) 4)
        | .vertical =>
          fit (Int.tdiv (2 * (v.sample x (y - 1) + v.sample x (y + 1)) + 2 * v.sample x y -
            v.sample x (y - 2) - v.sample x (y + 2)) 4)
      else if color v.pattern x y = .g then
        if c = color v.pattern (x + 1) y then
          fit (v.sample x y + Int.tdiv (dif (x - 1) y + dif (x + 1) y) 2)
        else
          fit (v.sample x y + Int.tdiv (dif x (y - 1) + dif x (y + 1)) 2)
      else
        fit (v.candidate k .g x y +
          Int.tdiv (dif (x - 1) (y - 1) + dif (x + 1) (y - 1) + dif (x - 1) (y + 1) +
            dif (x + 1) (y + 1)) 4)

/-- 46_ahd.md R169, R170: the default projection, and the homogeneity score: the count, among the eight
neighbours read with edge replication, of those whose three projected differences are within their bounds; at
most 8. -/
def Obligations.AhdProjectionAndHomogeneity : Prop :=
  ∀ (v : View) (k : Axis) (x y : Int),
    (v.params.ahdProject = .opponent →
      v.projected k x y =
        (v.candidate k .r x y + 2 * v.candidate k .g x y + v.candidate k .b x y,
          v.candidate k .r x y - v.candidate k .g x y,
          v.candidate k .b x y - v.candidate k .g x y)) ∧
    v.homogeneity k x y ≤ 8 ∧
    v.homogeneity k x y =
      (directions.countP fun d =>
        let a := v.projected k x y
        let b := v.projected k (v.cx (x + d.1)) (v.cy (y + d.2))
        abs (b.1 - a.1) ≤ ahdEpsL v.params v.depth ∧ abs (b.2.1 - a.2.1) ≤ ahdEpsC v.params v.depth ∧
          abs (b.2.2 - a.2.2) ≤ ahdEpsC v.params v.depth)

/-! ### Laws of the methods -/

/-- 00_scope.md R17: every sample every method computes for an output position lies in `[0, MAX]`. -/
def Obligations.EveryMethodStaysInRange : Prop :=
  ∀ (m : Method) (v : View) (c : Chan) (x y : Nat), v.Legal →
    x < outCols (geometryOf m) { ctrl := 0, width := v.width, height := v.height } →
    y < outRows (geometryOf m) { ctrl := 0, width := v.width, height := v.height } →
    0 ≤ methodValue m v c x y ∧ methodValue m v c x y ≤ maxSample v.depth

/-- 41_dispatcher.md R108: uniform-field invariance, for every command. -/
def Obligations.UniformFieldIsPreserved : Prop :=
  ∀ (i : Instr) (s : State) (w : Sample), RunReady i.geometry i.depth s →
    (∀ a < nIn s.cmd, s.inp.read a = w) →
    ∃ t, exec i s = .next t ∧ t.status = statusDone ∧
      ∀ a < nOutOf i.geometry s.cmd, t.out.read a = w

/-- 42_nearest_simple_bilinear.md R111: the closed form of NEAREST. The candidates in winning order are the
canonical offsets; the winner is the first whose position is in range. -/
def Obligations.NearestHasClosedForm : Prop :=
  ∀ (v : View) (c : Chan) (x y : Nat), 2 ≤ v.width → 2 ≤ v.height → x < v.width → y < v.height →
    ∃ o, (neighbours v.pattern x y c).find? (fun o =>
        0 ≤ (x : Int) + o.1 ∧ (x : Int) + o.1 < v.width ∧
          0 ≤ (y : Int) + o.2 ∧ (y : Int) + o.2 < v.height) = some o ∧
      nearest v c x y = v.cell (((y : Int) + o.2) * v.width + ((x : Int) + o.1)).toNat

/-- 42_nearest_simple_bilinear.md R115. -/
def Obligations.SimpleEqualsBilinear : Prop :=
  ∀ (v : View) (c : Chan) (x y : Int), simple v c x y = bilinear v c x y

/-- 42_nearest_simple_bilinear.md R116. -/
def Obligations.NativeChannelIsTheInputSample : Prop :=
  ∀ (m : Method) (v : View) (x y : Nat), (m = .nearest ∨ m = .simple ∨ m = .bilinear) →
    x < v.width → y < v.height →
    methodValue m v (color v.pattern x y) x y = v.cell (y * v.width + x)

/-- 43_hqlinear_edgesense.md R126, 'LAP = 0 reduces the rule to BILINEAR exactly'. -/
def Obligations.HqlinearWithoutLaplacianIsBilinear : Prop :=
  ∀ (v : View) (c : Chan) (x y : Int), v.Legal → v.laplacian x y = 0 →
    hqlinear v c x y = bilinear v c x y

/-- 43_hqlinear_edgesense.md R128: within epsilon EDGESENSE is isotropic, 'Bilinear-equivalent'. -/
def Obligations.EdgesenseWithinEpsilonIsBilinear : Prop :=
  ∀ (v : View) (c : Chan) (x y : Int),
    abs (abs (v.sample (x - 1) y - v.sample (x + 1) y) - abs (v.sample x (y - 1) - v.sample x (y + 1))) ≤
      edgeEps v.params v.depth →
    edgesense v c x y = bilinear v c x y

/-- 45_vng.md R155: at least one direction is always valid. -/
def Obligations.VngAlwaysHasValidDirection : Prop :=
  ∀ (v : View) (x y : Int), v.params.ok = true → 1 ≤ (v.validDirections x y).length

/-- 44_downsample.md R142: the last column of an odd `W` and the last row of an odd `H` are not read. -/
def Obligations.DownsampleIgnoresOddEdge : Prop :=
  ∀ (v w : View) (c : Chan) (i j : Nat),
    w = { v with inp := w.inp } → i < v.width / 2 → j < v.height / 2 →
    (∀ x y : Nat, x < 2 * (v.width / 2) → y < 2 * (v.height / 2) →
      v.cell (y * v.width + x) = w.cell (y * v.width + x)) →
    downsample v c i j = downsample w c i j

/-- 45_vng.md R151, R154: VNG at a position reads only the 5x5 window centred on it. -/
def Obligations.VngReadsFiveByFiveWindow : Prop :=
  ∀ (v w : View) (c : Chan) (x y : Int), w = { v with inp := w.inp } →
    (∀ a b : Int, abs (a - x) ≤ 2 → abs (b - y) ≤ 2 → v.sample a b = w.sample a b) →
    vng v c x y = vng w c x y

/-- 46_ahd.md R165: AHD at a position reads only the 9x9 window centred on it. -/
def Obligations.AhdReadsNineByNineWindow : Prop :=
  ∀ (v w : View) (c : Chan) (x y : Nat), w = { v with inp := w.inp } →
    x < v.width → y < v.height →
    (∀ a b : Int, abs (a - x) ≤ 4 → abs (b - y) ≤ 4 → v.sample a b = w.sample a b) →
    ahd v c x y = ahd w c x y

/-! ### The run and the engine -/

/-- 41_dispatcher.md R106: OUT below `N_out` at DONE is a function of IN below `N_in`, of CMD_L and of the
parameters. Two states that agree on those, and on nothing else, give the same result. -/
def Obligations.RunIsDeterminedByMosaicAndCommand : Prop :=
  ∀ (i : Instr) (s u : State), RunReady i.geometry i.depth s → RunReady i.geometry i.depth u →
    s.params = u.params → s.cmd.width = u.cmd.width → s.cmd.height = u.cmd.height →
    (∀ a < nIn s.cmd, s.inp.read a = u.inp.read a) →
    ∃ t w, exec i s = .next t ∧ exec i u = .next w ∧
      ∀ a < nOutOf i.geometry s.cmd, t.out.read a = w.out.read a

/-- 41_dispatcher.md R102: in every state of the machine with STATUS `0b01`, ENGINE's turn completes the run. That
an 8-bit run completes of whose IN HOST wrote a cell above 255 during the run (20_memory.md R61) is the model's
choice (DESIGN CHOICE, log 11): 20_memory.md R41 would refuse it. -/
def Obligations.RunStepIsAlwaysEnabled : Prop :=
  ∀ s : State, s.Inv → s.status = statusBusy → (s.moves = [] ∨ s.moves.head? = some .engine) →
    ∃ t, step s = .next t ∧ t.status = statusDone

/-- Every step keeps the machine's invariant. -/
def Obligations.EveryStepKeepsTheInvariant : Prop :=
  ∀ s t : State, s.Inv → step s = .next t → t.Inv

/-- The invariant holds right after reset (of the model's own choices it rests on the platform of log 5 only). -/
def Obligations.ResetMeetsTheInvariant : Prop :=
  State.reset.Inv

/-- 41_dispatcher.md R100, R102: a step at STATUS `0b01` in which ENGINE has its turn is exec of the command
CMD_L decodes to; the turn is taken off the list first. -/
def Obligations.StepRunsTheDecodedCommand : Prop :=
  ∀ (s : State) (i : Instr), s.status = statusBusy → decode s.cmd.ctrl = .ok i →
    (s.moves = [] → step s = exec i s) ∧
    (∀ rest, s.moves = .engine :: rest → step s = exec i (s.setMoves rest)) ∧
    (∀ rest, s.moves = .wait :: rest → step s = exec i s)

/-- 20_memory.md R53, 41_dispatcher.md R107: what any run, spoilt or not, leaves unchanged. -/
def Obligations.RunLeavesEverythingElse : Prop :=
  ∀ (i : Instr) (s t : State), Memory.wf s.out → exec i s = .next t →
    t = { s with
      status := statusDone, out := t.out, unread := s.cmd :: s.unread, inConflict := false
      outConflicts := [], freeCtr := t.freeCtr } ∧
    ∀ a, nOutOf i.geometry s.cmd ≤ a → t.out.read a = s.out.read a

/-- 20_memory.md R61: a run whose IN HOST wrote completes, and every OUT cell of it is a free value, whatever
the free values are. That it does so too where HOST wrote a value above 255 during an 8-bit run is the model's
choice (DESIGN CHOICE, log 11): 20_memory.md R41 would refuse that run. -/
def Obligations.RunWithSpoiltInputGivesAnyValues : Prop :=
  ∀ (i : Instr) (s : State), RunFits i.geometry s → s.inConflict = true →
    ∃ t, exec i s = .next t ∧ t.status = statusDone ∧
      t.freeCtr = s.freeCtr + nOutOf i.geometry s.cmd ∧
      ∀ a < nOutOf i.geometry s.cmd, t.out.read a = Config.freeSample (s.freeCtr + a)

/-- 20_memory.md R61: a run of which HOST wrote some OUT cells completes, those cells are free values, and
every other cell has the value the method gives. -/
def Obligations.RunWithSpoiltOutputFreesThoseCells : Prop :=
  ∀ (i : Instr) (s : State), RunFits i.geometry s → DepthFits i.depth s → s.inConflict = false →
    ∃ t, exec i s = .next t ∧ t.status = statusDone ∧
      ∀ x y c, x < outCols i.geometry s.cmd → y < outRows i.geometry s.cmd →
        let a := outIndex (outCols i.geometry s.cmd) x y c
        (a ∈ s.outConflicts → t.out.read a = Config.freeSample (s.freeCtr + a)) ∧
        (a ∉ s.outConflicts → ((t.out.read a).toNat : Int) =
          methodValue i.method (viewOf s i.depth i.pattern) c x y)

/-- 60_exceptions.md R198: with BUSY = 0 and HOST silent nothing changes. -/
def Obligations.IdleEngineDoesNothing : Prop :=
  ∀ s : State, busy s = false → s.moves = [] → step s = .next s

/-- 70_reset_and_hazards.md R216, 10_state.md R27: STATUS becomes DONE only by the run step of a run in flight. -/
def Obligations.OnlyTheRunStepSetsDone : Prop :=
  ∀ s t : State, step s = .next t → s.status ≠ statusDone → t.status = statusDone →
    s.status = statusBusy ∧ ∃ i, decode s.cmd.ctrl = .ok i ∧
      (s.moves = [] ∨ s.moves.head? = some .engine ∨ s.moves.head? = some .wait)

/-- 10_state.md R25: CMD_L changes only by START and by reset. -/
def Obligations.OnlyStartAndResetChangeCommand : Prop :=
  ∀ s t : State, step s = .next t → t.cmd ≠ s.cmd →
    s.moves.head? = some (.wr 3 1) ∨ s.moves.head? = some .reset

/-- 20_memory.md R53: IN changes only where HOST writes it; ENGINE never writes it. That a cell written during a
run or in its window takes the value written is the model's choice (DESIGN CHOICE, log 6). -/
def Obligations.OnlyHostWritesChangeInput : Prop :=
  ∀ s t : State, Memory.wf s.inp → step s = .next t → ∀ a, t.inp.read a ≠ s.inp.read a →
    ∃ v, s.moves.head? = some (.wrIn a v) ∧ t.inp.read a = v

/-- 00_scope.md R10: the parameters do not change. -/
def Obligations.NoStepChangesParameters : Prop :=
  ∀ s t : State, step s = .next t → t.params = s.params

/-- 30_encoding.md R78, 70_reset_and_hazards.md R216: WAIT with a run in flight ends: ENGINE completes the run,
then HOST reads STATUS = 2 and goes on with its next turn. With DONE already set the first read ends it. With
STATUS `0b00` HOST polls for ever and nothing changes; that the loop then takes no turn off the list is the
model's choice (log 4); so is that an 8-bit run completes of whose IN HOST wrote a cell above 255 during it
(DESIGN CHOICE, log 11; 20_memory.md R41 would refuse it). -/
def Obligations.WaitEndsAfterTheRun : Prop :=
  ∀ (s : State) (rest : List Move), s.moves = .wait :: rest →
    (s.Inv → s.status = statusBusy →
      ∃ t u, step s = .next t ∧ step t = .next u ∧ t.status = statusDone ∧
        u.status = statusDone ∧ u.moves = rest ∧ u.reads = 2 :: s.reads ∧ u.unread = [] ∧
        u.out = t.out) ∧
    (s.status = statusDone →
      step s = .next { s with moves := rest, reads := 2 :: s.reads, unread := [] }) ∧
    (s.status = statusIdle → step s = .next s)

/-! ### HOST's registers, START and reset -/

/-- 41_dispatcher.md R101: START with BUSY = 0; the five checks in their order, and what an accepted START
does: CMD_L, STATUS and nothing else. The windows of earlier runs whose DONE HOST has not read stay open
(70_reset_and_hazards.md R214, R217; log 6). -/
def Obligations.StartChecksThenLatches : Prop :=
  ∀ (s : State) (rest : List Move), busy s = false → s.moves = .wr 3 1 :: rest → Memory.wf s.inp →
    let k : Command := { ctrl := s.ctrl, width := s.width, height := s.height }
    let written := s.widthWritten = true ∧ s.heightWritten = true ∧ s.ctrlWritten = true
    let reserved := s.ctrl.extractLsb' 6 2 ≠ 0
    let small := s.width < 2 ∨ s.height < 2
    let short := s.params.inLen < s.width * s.height ∨ s.params.outLen < nOut k
    let wide := ctrlDepth16 s.ctrl = 0 ∧ ∃ a < s.width * s.height, 255 < (s.inp.read a).toNat
    (¬ written → step s = .refused .unwrittenRegister) ∧
    (written → reserved → step s = .refused .reservedCtrlBits) ∧
    (written → ¬ reserved → small → step s = .refused .dimensionTooSmall) ∧
    (written → ¬ reserved → ¬ small → short → step s = .refused .bufferTooSmall) ∧
    (written → ¬ reserved → ¬ small → ¬ short → wide → step s = .refused .depthMismatch) ∧
    (written → ¬ reserved → ¬ small → ¬ short → ¬ wide →
      step s = .next { s with moves := rest, cmd := k, status := 0b01#2 })

/-- 10_state.md R28: writes of START. -/
def Obligations.StartStrobe : Prop :=
  ∀ (s : State) (rest : List Move) (v : Nat), s.moves = .wr 3 v :: rest →
    (v = 0 → step s = .next (s.setMoves rest)) ∧
    (v = 1 → busy s = true → step s = .refused .startWhileBusy) ∧
    (v = 1 → busy s = false → step s = start (s.setMoves rest))

/-- 20_memory.md R49: `N_in` and `N_out` of a command. -/
def Obligations.SampleCountsOfCommand : Prop :=
  ∀ k : Command, nIn k = k.width * k.height ∧
    (ctrlMethod k.ctrl ≠ 4#3 → nOut k = k.width * k.height * 3) ∧
    (ctrlMethod k.ctrl = 4#3 → nOut k = (k.width / 2) * (k.height / 2) * 3)

/-- 10_state.md R21, R22, R23: a register write that fits is stored as written, marks the register, and
changes nothing else. -/
def Obligations.CommandRegisterWritesStore : Prop :=
  ∀ (s : State) (rest : List Move) (v : Nat),
    (s.moves = .wr 0 v :: rest → v < 2 ^ s.params.dimBits →
      step s = .next { s with moves := rest, width := v, widthWritten := true }) ∧
    (s.moves = .wr 1 v :: rest → v < 2 ^ s.params.dimBits →
      step s = .next { s with moves := rest, height := v, heightWritten := true }) ∧
    (s.moves = .wr 2 v :: rest → v < 256 →
      step s = .next { s with moves := rest, ctrl := BitVec.ofNat 8 v, ctrlWritten := true })

/-- 10_state.md R24: a HOST read of WIDTH, HEIGHT or CTRL returns the value last written, also during a run. -/
def Obligations.RegisterReadReturnsLastWrite : Prop :=
  ∀ (s : State) (rest : List Move) (n v : Nat), s.moves = .wr n v :: .rd n :: rest → n < 3 →
    (n < 2 → v < 2 ^ s.params.dimBits) → (n = 2 → v < 256) →
    ∃ t u, step s = .next t ∧ step t = .next u ∧ u.reads = v :: s.reads ∧ u.moves = rest

/-- 10_state.md R36: a read of an unwritten register and a START with one are refused; any write sets the
mark, and reset clears all three. -/
def Obligations.UnwrittenRegistersAreRefused : Prop :=
  ∀ (s : State) (rest : List Move),
    (s.moves = .rd 0 :: rest → s.widthWritten = false → step s = .refused .unwrittenRegister) ∧
    (s.moves = .rd 1 :: rest → s.heightWritten = false → step s = .refused .unwrittenRegister) ∧
    (s.moves = .rd 2 :: rest → s.ctrlWritten = false → step s = .refused .unwrittenRegister) ∧
    (s.moves = .wr 3 1 :: rest → busy s = false →
      (s.widthWritten && s.heightWritten && s.ctrlWritten) = false →
      step s = .refused .unwrittenRegister) ∧
    (∀ v t, s.moves = .wr 0 v :: rest → step s = .next t → t.widthWritten = true) ∧
    (∀ v t, s.moves = .wr 1 v :: rest → step s = .next t → t.heightWritten = true) ∧
    (∀ v t, s.moves = .wr 2 v :: rest → step s = .next t → t.ctrlWritten = true) ∧
    (s.moves = .reset :: rest → ∃ t, step s = .next t ∧
      t.widthWritten = false ∧ t.heightWritten = false ∧ t.ctrlWritten = false)

/-- 10_state.md R27, 70_reset_and_hazards.md R216: STATUS always reads, and reading it changes nothing of the
engine; HOST receives the value, and DONE = 1 closes every window. -/
def Obligations.StatusReadHasNoSideEffect : Prop :=
  ∀ (s : State) (rest : List Move), s.moves = .rd 4 :: rest →
    step s = .next { s with
      moves := rest, reads := s.status.toNat :: s.reads
      unread := if s.status.getLsbD 1 = true then [] else s.unread }

/-- 30_encoding.md R76: values wider than the register and register numbers above 4 are refused; of the
values that fit STATUS a write is ignored (10_state.md R24). -/
def Obligations.RegisterNumbersAndWidths : Prop :=
  ∀ (s : State) (rest : List Move) (n v : Nat),
    (s.moves = .wr n v :: rest →
      ((n = 0 ∨ n = 1) → 2 ^ s.params.dimBits ≤ v → step s = .refused .valueTooWide) ∧
      (n = 2 → 256 ≤ v → step s = .refused .valueTooWide) ∧
      (n = 3 → 2 ≤ v → step s = .refused .valueTooWide) ∧
      (n = 4 → 4 ≤ v → step s = .refused .valueTooWide) ∧
      (n = 4 → v < 4 → step s = .next (s.setMoves rest)) ∧
      (5 ≤ n → step s = .refused .noSuchRegister)) ∧
    (s.moves = .rd n :: rest →
      (n = 3 → step s = .refused .startWriteOnly) ∧ (5 ≤ n → step s = .refused .noSuchRegister))

/-- 70_reset_and_hazards.md R205, R207: the reset event. The values of WIDTH, HEIGHT, CTRL and CMD_L after it are
not stated: the spec gives them none. -/
def Obligations.ResetClearsTheEngine : Prop :=
  ∀ (s : State) (rest : List Move), s.moves = .reset :: rest → Memory.wf s.out →
    ∃ t, step s = .next t ∧ t.status = 0b00#2 ∧ t.widthWritten = false ∧ t.heightWritten = false ∧
      t.ctrlWritten = false ∧ t.inp = s.inp ∧ t.params = s.params ∧ t.moves = rest ∧
      (busy s = false → t.out = s.out) ∧
      (busy s = true →
        (∀ a < nOut s.cmd, t.out.read a = Config.freeSample (s.freeCtr + a)) ∧
        ∀ a, nOut s.cmd ≤ a → t.out.read a = s.out.read a)

/-- 70_reset_and_hazards.md R213, 20_memory.md R59: a write of WIDTH, HEIGHT or CTRL during a run leaves the run
alone: the same command completes with the same output. -/
def Obligations.RegisterWritesDoNotReachTheRun : Prop :=
  ∀ (s t : State) (rest : List Move) (n v : Nat), busy s = true → n < 3 →
    s.moves = .wr n v :: rest → step s = .next t →
    t.cmd = s.cmd ∧ t.status = s.status ∧ t.inp = s.inp ∧ t.out = s.out ∧
    ∀ (i : Instr) (u : State), exec i s = .next u →
      ∃ w, exec i t = .next w ∧ w.out = u.out ∧ w.status = u.status

/-! ### HOST and the spaces -/

/-- 20_memory.md R43, R44: a HOST access beyond a space is refused. -/
def Obligations.AccessBeyondASpaceIsRefused : Prop :=
  ∀ (s : State) (rest : List Move) (a : Nat) (v : Sample),
    (s.params.inLen ≤ a → (s.moves = .wrIn a v :: rest ∨ s.moves = .rdIn a :: rest) →
      step s = .refused .inOutOfRange) ∧
    (s.params.outLen ≤ a → (s.moves = .wrOut a v :: rest ∨ s.moves = .rdOut a :: rest) →
      step s = .refused .outOutOfRange)

/-- 20_memory.md R51, 70_reset_and_hazards.md R214: IN is plain memory to HOST at any time, during a run and in
its window too: a cell written reads back, and every other cell reads as before. A write at or above `N_in` of
every run whose window is open touches nothing else: OUT, STATUS and the run in flight are as before. That a
cell below `N_in` written during a run or in its window takes the value written is the model's choice (DESIGN
CHOICE, log 6): 20_memory.md R56 (c) gives that access no defined result. -/
def Obligations.InputCellsReadBack : Prop :=
  ∀ (s : State) (rest : List Move) (a b : Nat) (v : Sample),
    s.moves = .wrIn a v :: .rdIn b :: rest → Memory.wf s.inp →
    a < s.params.inLen → b < s.params.inLen →
    ∃ t u, step s = .next t ∧ step t = .next u ∧ t.inp = u.inp ∧
      u.reads = (if a = b then v.toNat else (s.inp.read b).toNat) :: s.reads ∧
      ((∀ k ∈ s.windows, nIn k ≤ a) →
        u = { s with moves := rest, inp := u.inp, reads := u.reads })

/-- 20_memory.md R51, 70_reset_and_hazards.md R217: OUT is plain memory to HOST at every cell at or above `N_out`
of every run whose window is open; with no window open, at every cell. -/
def Obligations.OutputCellsReadBack : Prop :=
  ∀ (s : State) (rest : List Move) (a b : Nat) (v : Sample),
    s.moves = .wrOut a v :: .rdOut b :: rest → Memory.wf s.out →
    (∀ k ∈ s.windows, nOut k ≤ a ∧ nOut k ≤ b) → a < s.params.outLen → b < s.params.outLen →
    ∃ t u, step s = .next t ∧ step t = .next u ∧
      u.reads = (if a = b then v.toNat else (s.out.read b).toNat) :: s.reads ∧
      u = { s with moves := rest, out := u.out, reads := u.reads }

/-- 70_reset_and_hazards.md R217, 20_memory.md R61: from START until HOST has read DONE = 1, also past a later
START, a read of OUT below the run's `N_out` returns a free value; otherwise the cell. -/
def Obligations.OutputReadsInTheWindowAreAnyValue : Prop :=
  ∀ (s : State) (rest : List Move) (a : Nat), s.moves = .rdOut a :: rest → a < s.params.outLen →
    ((∃ k ∈ s.windows, a < nOut k) →
      step s = .next { s with
        moves := rest, reads := (Config.freeSample s.freeCtr).toNat :: s.reads
        freeCtr := s.freeCtr + 1 }) ∧
    ((∀ k ∈ s.windows, nOut k ≤ a) →
      step s = .next { s with moves := rest, reads := (s.out.read a).toNat :: s.reads })

/-- 70_reset_and_hazards.md R214, 20_memory.md R61: a HOST write of IN below `N_in` makes every OUT cell of the run
any value: while BUSY, at DONE; of an ended run whose DONE HOST has not read, also past a later START, at
once. Every other OUT cell is then as before. The model's choices in it: that the IN cell takes the value and
that an ended run is spoilt at once (DESIGN CHOICE, log 6), and that an 8-bit run completes also where the value
is above 255 (DESIGN CHOICE, log 11), which 20_memory.md R41 would refuse. -/
def Obligations.InputWriteDuringRunSpoilsOutput : Prop :=
  ∀ (s : State) (rest : List Move) (a : Nat) (v : Sample), s.Inv → s.moves = .wrIn a v :: rest →
    (∀ more, s.status = statusBusy → rest = .engine :: more → a < nIn s.cmd →
      ∃ t u, step s = .next t ∧ step t = .next u ∧ u.status = statusDone ∧ u.inp.read a = v ∧
        ∀ b < nOut s.cmd, u.out.read b = Config.freeSample (s.freeCtr + s.spoiltBelow a + b)) ∧
    (∀ k ∈ s.unread, a < nIn k →
      ∃ t, step s = .next t ∧ t.status = s.status ∧ t.inp.read a = v ∧
        (∀ b < nOut k, t.out.read b = Config.freeSample (s.freeCtr + b)) ∧
        ∀ b, (∀ j ∈ s.unread, a < nIn j → nOut j ≤ b) → t.out.read b = s.out.read b)

/-- 70_reset_and_hazards.md R217, 20_memory.md R61: a HOST write of an OUT cell below `N_out` makes that cell any
value: while BUSY, at DONE, and every other cell is as the run without the write leaves it; in the window of
an ended run, also past a later START, at once (DESIGN CHOICE, log 6), and every other cell is as before. That
the run completes also where HOST wrote IN above 255 during an 8-bit run is the model's choice (DESIGN CHOICE,
log 11). -/
def Obligations.OutputWriteDuringRunSpoilsThatCell : Prop :=
  ∀ (s : State) (rest : List Move) (a : Nat) (v : Sample), s.Inv → s.moves = .wrOut a v :: rest →
    (∀ more, s.status = statusBusy → rest = .engine :: more → a < nOut s.cmd →
      ∃ t u w, step s = .next t ∧ step t = .next u ∧ u.status = statusDone ∧
        u.out.read a = Config.freeSample (s.freeCtr + a) ∧
        step (s.setMoves rest) = .next w ∧
        ∀ b, b ≠ a → u.out.read b = w.out.read b) ∧
    (∀ k ∈ s.unread, a < nOut k → (s.status ≠ statusBusy ∨ nOut s.cmd ≤ a) →
      ∃ t, step s = .next t ∧ t.status = s.status ∧
        t.out.read a = Config.freeSample s.freeCtr ∧ ∀ b, b ≠ a → t.out.read b = s.out.read b)
end

