-- ==== Sys2Proof/Laws/State.lean ====
section
/-! SUPPORT. What each update of State does to each field. -/

namespace Sys2Proof.Machine

variable (s : State)

@[simp] theorem State.setWidth_params (v : Nat) : (s.setWidth v).params = s.params := rfl
@[simp] theorem State.setWidth_width (v : Nat) : (s.setWidth v).width = v := rfl
@[simp] theorem State.setWidth_height (v : Nat) : (s.setWidth v).height = s.height := rfl
@[simp] theorem State.setWidth_ctrl (v : Nat) : (s.setWidth v).ctrl = s.ctrl := rfl
@[simp] theorem State.setWidth_widthWritten (v : Nat) : (s.setWidth v).widthWritten = true := rfl
@[simp] theorem State.setWidth_heightWritten (v : Nat) : (s.setWidth v).heightWritten = s.heightWritten := rfl
@[simp] theorem State.setWidth_ctrlWritten (v : Nat) : (s.setWidth v).ctrlWritten = s.ctrlWritten := rfl
@[simp] theorem State.setWidth_status (v : Nat) : (s.setWidth v).status = s.status := rfl
@[simp] theorem State.setWidth_cmd (v : Nat) : (s.setWidth v).cmd = s.cmd := rfl
@[simp] theorem State.setWidth_inp (v : Nat) : (s.setWidth v).inp = s.inp := rfl
@[simp] theorem State.setWidth_out (v : Nat) : (s.setWidth v).out = s.out := rfl
@[simp] theorem State.setWidth_unread (v : Nat) : (s.setWidth v).unread = s.unread := rfl
@[simp] theorem State.setWidth_inConflict (v : Nat) : (s.setWidth v).inConflict = s.inConflict := rfl
@[simp] theorem State.setWidth_outConflicts (v : Nat) : (s.setWidth v).outConflicts = s.outConflicts := rfl
@[simp] theorem State.setWidth_moves (v : Nat) : (s.setWidth v).moves = s.moves := rfl
@[simp] theorem State.setWidth_reads (v : Nat) : (s.setWidth v).reads = s.reads := rfl
@[simp] theorem State.setWidth_freeCtr (v : Nat) : (s.setWidth v).freeCtr = s.freeCtr := rfl

@[simp] theorem State.setHeight_params (v : Nat) : (s.setHeight v).params = s.params := rfl
@[simp] theorem State.setHeight_width (v : Nat) : (s.setHeight v).width = s.width := rfl
@[simp] theorem State.setHeight_height (v : Nat) : (s.setHeight v).height = v := rfl
@[simp] theorem State.setHeight_ctrl (v : Nat) : (s.setHeight v).ctrl = s.ctrl := rfl
@[simp] theorem State.setHeight_widthWritten (v : Nat) : (s.setHeight v).widthWritten = s.widthWritten := rfl
@[simp] theorem State.setHeight_heightWritten (v : Nat) : (s.setHeight v).heightWritten = true := rfl
@[simp] theorem State.setHeight_ctrlWritten (v : Nat) : (s.setHeight v).ctrlWritten = s.ctrlWritten := rfl
@[simp] theorem State.setHeight_status (v : Nat) : (s.setHeight v).status = s.status := rfl
@[simp] theorem State.setHeight_cmd (v : Nat) : (s.setHeight v).cmd = s.cmd := rfl
@[simp] theorem State.setHeight_inp (v : Nat) : (s.setHeight v).inp = s.inp := rfl
@[simp] theorem State.setHeight_out (v : Nat) : (s.setHeight v).out = s.out := rfl
@[simp] theorem State.setHeight_unread (v : Nat) : (s.setHeight v).unread = s.unread := rfl
@[simp] theorem State.setHeight_inConflict (v : Nat) : (s.setHeight v).inConflict = s.inConflict := rfl
@[simp] theorem State.setHeight_outConflicts (v : Nat) : (s.setHeight v).outConflicts = s.outConflicts := rfl
@[simp] theorem State.setHeight_moves (v : Nat) : (s.setHeight v).moves = s.moves := rfl
@[simp] theorem State.setHeight_reads (v : Nat) : (s.setHeight v).reads = s.reads := rfl
@[simp] theorem State.setHeight_freeCtr (v : Nat) : (s.setHeight v).freeCtr = s.freeCtr := rfl

@[simp] theorem State.setCtrl_params (v : BitVec 8) : (s.setCtrl v).params = s.params := rfl
@[simp] theorem State.setCtrl_width (v : BitVec 8) : (s.setCtrl v).width = s.width := rfl
@[simp] theorem State.setCtrl_height (v : BitVec 8) : (s.setCtrl v).height = s.height := rfl
@[simp] theorem State.setCtrl_ctrl (v : BitVec 8) : (s.setCtrl v).ctrl = v := rfl
@[simp] theorem State.setCtrl_widthWritten (v : BitVec 8) : (s.setCtrl v).widthWritten = s.widthWritten := rfl
@[simp] theorem State.setCtrl_heightWritten (v : BitVec 8) : (s.setCtrl v).heightWritten = s.heightWritten := rfl
@[simp] theorem State.setCtrl_ctrlWritten (v : BitVec 8) : (s.setCtrl v).ctrlWritten = true := rfl
@[simp] theorem State.setCtrl_status (v : BitVec 8) : (s.setCtrl v).status = s.status := rfl
@[simp] theorem State.setCtrl_cmd (v : BitVec 8) : (s.setCtrl v).cmd = s.cmd := rfl
@[simp] theorem State.setCtrl_inp (v : BitVec 8) : (s.setCtrl v).inp = s.inp := rfl
@[simp] theorem State.setCtrl_out (v : BitVec 8) : (s.setCtrl v).out = s.out := rfl
@[simp] theorem State.setCtrl_unread (v : BitVec 8) : (s.setCtrl v).unread = s.unread := rfl
@[simp] theorem State.setCtrl_inConflict (v : BitVec 8) : (s.setCtrl v).inConflict = s.inConflict := rfl
@[simp] theorem State.setCtrl_outConflicts (v : BitVec 8) : (s.setCtrl v).outConflicts = s.outConflicts := rfl
@[simp] theorem State.setCtrl_moves (v : BitVec 8) : (s.setCtrl v).moves = s.moves := rfl
@[simp] theorem State.setCtrl_reads (v : BitVec 8) : (s.setCtrl v).reads = s.reads := rfl
@[simp] theorem State.setCtrl_freeCtr (v : BitVec 8) : (s.setCtrl v).freeCtr = s.freeCtr := rfl

@[simp] theorem State.setMoves_params (ms : List Move) : (s.setMoves ms).params = s.params := rfl
@[simp] theorem State.setMoves_width (ms : List Move) : (s.setMoves ms).width = s.width := rfl
@[simp] theorem State.setMoves_height (ms : List Move) : (s.setMoves ms).height = s.height := rfl
@[simp] theorem State.setMoves_ctrl (ms : List Move) : (s.setMoves ms).ctrl = s.ctrl := rfl
@[simp] theorem State.setMoves_widthWritten (ms : List Move) : (s.setMoves ms).widthWritten = s.widthWritten := rfl
@[simp] theorem State.setMoves_heightWritten (ms : List Move) : (s.setMoves ms).heightWritten = s.heightWritten := rfl
@[simp] theorem State.setMoves_ctrlWritten (ms : List Move) : (s.setMoves ms).ctrlWritten = s.ctrlWritten := rfl
@[simp] theorem State.setMoves_status (ms : List Move) : (s.setMoves ms).status = s.status := rfl
@[simp] theorem State.setMoves_cmd (ms : List Move) : (s.setMoves ms).cmd = s.cmd := rfl
@[simp] theorem State.setMoves_inp (ms : List Move) : (s.setMoves ms).inp = s.inp := rfl
@[simp] theorem State.setMoves_out (ms : List Move) : (s.setMoves ms).out = s.out := rfl
@[simp] theorem State.setMoves_unread (ms : List Move) : (s.setMoves ms).unread = s.unread := rfl
@[simp] theorem State.setMoves_inConflict (ms : List Move) : (s.setMoves ms).inConflict = s.inConflict := rfl
@[simp] theorem State.setMoves_outConflicts (ms : List Move) : (s.setMoves ms).outConflicts = s.outConflicts := rfl
@[simp] theorem State.setMoves_moves (ms : List Move) : (s.setMoves ms).moves = ms := rfl
@[simp] theorem State.setMoves_reads (ms : List Move) : (s.setMoves ms).reads = s.reads := rfl
@[simp] theorem State.setMoves_freeCtr (ms : List Move) : (s.setMoves ms).freeCtr = s.freeCtr := rfl

@[simp] theorem State.setInp_params (m : Memory) : (s.setInp m).params = s.params := rfl
@[simp] theorem State.setInp_width (m : Memory) : (s.setInp m).width = s.width := rfl
@[simp] theorem State.setInp_height (m : Memory) : (s.setInp m).height = s.height := rfl
@[simp] theorem State.setInp_ctrl (m : Memory) : (s.setInp m).ctrl = s.ctrl := rfl
@[simp] theorem State.setInp_widthWritten (m : Memory) : (s.setInp m).widthWritten = s.widthWritten := rfl
@[simp] theorem State.setInp_heightWritten (m : Memory) : (s.setInp m).heightWritten = s.heightWritten := rfl
@[simp] theorem State.setInp_ctrlWritten (m : Memory) : (s.setInp m).ctrlWritten = s.ctrlWritten := rfl
@[simp] theorem State.setInp_status (m : Memory) : (s.setInp m).status = s.status := rfl
@[simp] theorem State.setInp_cmd (m : Memory) : (s.setInp m).cmd = s.cmd := rfl
@[simp] theorem State.setInp_inp (m : Memory) : (s.setInp m).inp = m := rfl
@[simp] theorem State.setInp_out (m : Memory) : (s.setInp m).out = s.out := rfl
@[simp] theorem State.setInp_unread (m : Memory) : (s.setInp m).unread = s.unread := rfl
@[simp] theorem State.setInp_inConflict (m : Memory) : (s.setInp m).inConflict = s.inConflict := rfl
@[simp] theorem State.setInp_outConflicts (m : Memory) : (s.setInp m).outConflicts = s.outConflicts := rfl
@[simp] theorem State.setInp_moves (m : Memory) : (s.setInp m).moves = s.moves := rfl
@[simp] theorem State.setInp_reads (m : Memory) : (s.setInp m).reads = s.reads := rfl
@[simp] theorem State.setInp_freeCtr (m : Memory) : (s.setInp m).freeCtr = s.freeCtr := rfl

@[simp] theorem State.setOut_params (m : Memory) : (s.setOut m).params = s.params := rfl
@[simp] theorem State.setOut_width (m : Memory) : (s.setOut m).width = s.width := rfl
@[simp] theorem State.setOut_height (m : Memory) : (s.setOut m).height = s.height := rfl
@[simp] theorem State.setOut_ctrl (m : Memory) : (s.setOut m).ctrl = s.ctrl := rfl
@[simp] theorem State.setOut_widthWritten (m : Memory) : (s.setOut m).widthWritten = s.widthWritten := rfl
@[simp] theorem State.setOut_heightWritten (m : Memory) : (s.setOut m).heightWritten = s.heightWritten := rfl
@[simp] theorem State.setOut_ctrlWritten (m : Memory) : (s.setOut m).ctrlWritten = s.ctrlWritten := rfl
@[simp] theorem State.setOut_status (m : Memory) : (s.setOut m).status = s.status := rfl
@[simp] theorem State.setOut_cmd (m : Memory) : (s.setOut m).cmd = s.cmd := rfl
@[simp] theorem State.setOut_inp (m : Memory) : (s.setOut m).inp = s.inp := rfl
@[simp] theorem State.setOut_out (m : Memory) : (s.setOut m).out = m := rfl
@[simp] theorem State.setOut_unread (m : Memory) : (s.setOut m).unread = s.unread := rfl
@[simp] theorem State.setOut_inConflict (m : Memory) : (s.setOut m).inConflict = s.inConflict := rfl
@[simp] theorem State.setOut_outConflicts (m : Memory) : (s.setOut m).outConflicts = s.outConflicts := rfl
@[simp] theorem State.setOut_moves (m : Memory) : (s.setOut m).moves = s.moves := rfl
@[simp] theorem State.setOut_reads (m : Memory) : (s.setOut m).reads = s.reads := rfl
@[simp] theorem State.setOut_freeCtr (m : Memory) : (s.setOut m).freeCtr = s.freeCtr := rfl

@[simp] theorem State.receive_params (v : Nat) : (s.receive v).params = s.params := rfl
@[simp] theorem State.receive_width (v : Nat) : (s.receive v).width = s.width := rfl
@[simp] theorem State.receive_height (v : Nat) : (s.receive v).height = s.height := rfl
@[simp] theorem State.receive_ctrl (v : Nat) : (s.receive v).ctrl = s.ctrl := rfl
@[simp] theorem State.receive_widthWritten (v : Nat) : (s.receive v).widthWritten = s.widthWritten := rfl
@[simp] theorem State.receive_heightWritten (v : Nat) : (s.receive v).heightWritten = s.heightWritten := rfl
@[simp] theorem State.receive_ctrlWritten (v : Nat) : (s.receive v).ctrlWritten = s.ctrlWritten := rfl
@[simp] theorem State.receive_status (v : Nat) : (s.receive v).status = s.status := rfl
@[simp] theorem State.receive_cmd (v : Nat) : (s.receive v).cmd = s.cmd := rfl
@[simp] theorem State.receive_inp (v : Nat) : (s.receive v).inp = s.inp := rfl
@[simp] theorem State.receive_out (v : Nat) : (s.receive v).out = s.out := rfl
@[simp] theorem State.receive_unread (v : Nat) : (s.receive v).unread = s.unread := rfl
@[simp] theorem State.receive_inConflict (v : Nat) : (s.receive v).inConflict = s.inConflict := rfl
@[simp] theorem State.receive_outConflicts (v : Nat) : (s.receive v).outConflicts = s.outConflicts := rfl
@[simp] theorem State.receive_moves (v : Nat) : (s.receive v).moves = s.moves := rfl
@[simp] theorem State.receive_reads (v : Nat) : (s.receive v).reads = v :: s.reads := rfl
@[simp] theorem State.receive_freeCtr (v : Nat) : (s.receive v).freeCtr = s.freeCtr := rfl

@[simp] theorem State.closeWindow_params : (s.closeWindow).params = s.params := rfl
@[simp] theorem State.closeWindow_width : (s.closeWindow).width = s.width := rfl
@[simp] theorem State.closeWindow_height : (s.closeWindow).height = s.height := rfl
@[simp] theorem State.closeWindow_ctrl : (s.closeWindow).ctrl = s.ctrl := rfl
@[simp] theorem State.closeWindow_widthWritten : (s.closeWindow).widthWritten = s.widthWritten := rfl
@[simp] theorem State.closeWindow_heightWritten : (s.closeWindow).heightWritten = s.heightWritten := rfl
@[simp] theorem State.closeWindow_ctrlWritten : (s.closeWindow).ctrlWritten = s.ctrlWritten := rfl
@[simp] theorem State.closeWindow_status : (s.closeWindow).status = s.status := rfl
@[simp] theorem State.closeWindow_cmd : (s.closeWindow).cmd = s.cmd := rfl
@[simp] theorem State.closeWindow_inp : (s.closeWindow).inp = s.inp := rfl
@[simp] theorem State.closeWindow_out : (s.closeWindow).out = s.out := rfl
@[simp] theorem State.closeWindow_unread : (s.closeWindow).unread = [] := rfl
@[simp] theorem State.closeWindow_inConflict : (s.closeWindow).inConflict = s.inConflict := rfl
@[simp] theorem State.closeWindow_outConflicts : (s.closeWindow).outConflicts = s.outConflicts := rfl
@[simp] theorem State.closeWindow_moves : (s.closeWindow).moves = s.moves := rfl
@[simp] theorem State.closeWindow_reads : (s.closeWindow).reads = s.reads := rfl
@[simp] theorem State.closeWindow_freeCtr : (s.closeWindow).freeCtr = s.freeCtr := rfl

@[simp] theorem State.drawFree_params (n : Nat) : (s.drawFree n).params = s.params := rfl
@[simp] theorem State.drawFree_width (n : Nat) : (s.drawFree n).width = s.width := rfl
@[simp] theorem State.drawFree_height (n : Nat) : (s.drawFree n).height = s.height := rfl
@[simp] theorem State.drawFree_ctrl (n : Nat) : (s.drawFree n).ctrl = s.ctrl := rfl
@[simp] theorem State.drawFree_widthWritten (n : Nat) : (s.drawFree n).widthWritten = s.widthWritten := rfl
@[simp] theorem State.drawFree_heightWritten (n : Nat) : (s.drawFree n).heightWritten = s.heightWritten := rfl
@[simp] theorem State.drawFree_ctrlWritten (n : Nat) : (s.drawFree n).ctrlWritten = s.ctrlWritten := rfl
@[simp] theorem State.drawFree_status (n : Nat) : (s.drawFree n).status = s.status := rfl
@[simp] theorem State.drawFree_cmd (n : Nat) : (s.drawFree n).cmd = s.cmd := rfl
@[simp] theorem State.drawFree_inp (n : Nat) : (s.drawFree n).inp = s.inp := rfl
@[simp] theorem State.drawFree_out (n : Nat) : (s.drawFree n).out = s.out := rfl
@[simp] theorem State.drawFree_unread (n : Nat) : (s.drawFree n).unread = s.unread := rfl
@[simp] theorem State.drawFree_inConflict (n : Nat) : (s.drawFree n).inConflict = s.inConflict := rfl
@[simp] theorem State.drawFree_outConflicts (n : Nat) : (s.drawFree n).outConflicts = s.outConflicts := rfl
@[simp] theorem State.drawFree_moves (n : Nat) : (s.drawFree n).moves = s.moves := rfl
@[simp] theorem State.drawFree_reads (n : Nat) : (s.drawFree n).reads = s.reads := rfl
@[simp] theorem State.drawFree_freeCtr (n : Nat) : (s.drawFree n).freeCtr = s.freeCtr + n := rfl

@[simp] theorem State.latch_params (k : Command) : (s.latch k).params = s.params := rfl
@[simp] theorem State.latch_width (k : Command) : (s.latch k).width = s.width := rfl
@[simp] theorem State.latch_height (k : Command) : (s.latch k).height = s.height := rfl
@[simp] theorem State.latch_ctrl (k : Command) : (s.latch k).ctrl = s.ctrl := rfl
@[simp] theorem State.latch_widthWritten (k : Command) : (s.latch k).widthWritten = s.widthWritten := rfl
@[simp] theorem State.latch_heightWritten (k : Command) : (s.latch k).heightWritten = s.heightWritten := rfl
@[simp] theorem State.latch_ctrlWritten (k : Command) : (s.latch k).ctrlWritten = s.ctrlWritten := rfl
@[simp] theorem State.latch_status (k : Command) : (s.latch k).status = statusBusy := rfl
@[simp] theorem State.latch_cmd (k : Command) : (s.latch k).cmd = k := rfl
@[simp] theorem State.latch_inp (k : Command) : (s.latch k).inp = s.inp := rfl
@[simp] theorem State.latch_out (k : Command) : (s.latch k).out = s.out := rfl
@[simp] theorem State.latch_unread (k : Command) : (s.latch k).unread = s.unread := rfl
@[simp] theorem State.latch_inConflict (k : Command) : (s.latch k).inConflict = s.inConflict := rfl
@[simp] theorem State.latch_outConflicts (k : Command) : (s.latch k).outConflicts = s.outConflicts := rfl
@[simp] theorem State.latch_moves (k : Command) : (s.latch k).moves = s.moves := rfl
@[simp] theorem State.latch_reads (k : Command) : (s.latch k).reads = s.reads := rfl
@[simp] theorem State.latch_freeCtr (k : Command) : (s.latch k).freeCtr = s.freeCtr := rfl

@[simp] theorem State.complete_params (m : Memory) (n : Nat) : (s.complete m n).params = s.params := rfl
@[simp] theorem State.complete_width (m : Memory) (n : Nat) : (s.complete m n).width = s.width := rfl
@[simp] theorem State.complete_height (m : Memory) (n : Nat) : (s.complete m n).height = s.height := rfl
@[simp] theorem State.complete_ctrl (m : Memory) (n : Nat) : (s.complete m n).ctrl = s.ctrl := rfl
@[simp] theorem State.complete_widthWritten (m : Memory) (n : Nat) : (s.complete m n).widthWritten = s.widthWritten := rfl
@[simp] theorem State.complete_heightWritten (m : Memory) (n : Nat) : (s.complete m n).heightWritten = s.heightWritten := rfl
@[simp] theorem State.complete_ctrlWritten (m : Memory) (n : Nat) : (s.complete m n).ctrlWritten = s.ctrlWritten := rfl
@[simp] theorem State.complete_status (m : Memory) (n : Nat) : (s.complete m n).status = statusDone := rfl
@[simp] theorem State.complete_cmd (m : Memory) (n : Nat) : (s.complete m n).cmd = s.cmd := rfl
@[simp] theorem State.complete_inp (m : Memory) (n : Nat) : (s.complete m n).inp = s.inp := rfl
@[simp] theorem State.complete_out (m : Memory) (n : Nat) : (s.complete m n).out = m := rfl
@[simp] theorem State.complete_unread (m : Memory) (n : Nat) : (s.complete m n).unread = s.cmd :: s.unread := rfl
@[simp] theorem State.complete_inConflict (m : Memory) (n : Nat) : (s.complete m n).inConflict = false := rfl
@[simp] theorem State.complete_outConflicts (m : Memory) (n : Nat) : (s.complete m n).outConflicts = [] := rfl
@[simp] theorem State.complete_moves (m : Memory) (n : Nat) : (s.complete m n).moves = s.moves := rfl
@[simp] theorem State.complete_reads (m : Memory) (n : Nat) : (s.complete m n).reads = s.reads := rfl
@[simp] theorem State.complete_freeCtr (m : Memory) (n : Nat) : (s.complete m n).freeCtr = n := rfl

@[simp] theorem State.markInConflict_params : (s.markInConflict).params = s.params := rfl
@[simp] theorem State.markInConflict_width : (s.markInConflict).width = s.width := rfl
@[simp] theorem State.markInConflict_height : (s.markInConflict).height = s.height := rfl
@[simp] theorem State.markInConflict_ctrl : (s.markInConflict).ctrl = s.ctrl := rfl
@[simp] theorem State.markInConflict_widthWritten : (s.markInConflict).widthWritten = s.widthWritten := rfl
@[simp] theorem State.markInConflict_heightWritten : (s.markInConflict).heightWritten = s.heightWritten := rfl
@[simp] theorem State.markInConflict_ctrlWritten : (s.markInConflict).ctrlWritten = s.ctrlWritten := rfl
@[simp] theorem State.markInConflict_status : (s.markInConflict).status = s.status := rfl
@[simp] theorem State.markInConflict_cmd : (s.markInConflict).cmd = s.cmd := rfl
@[simp] theorem State.markInConflict_inp : (s.markInConflict).inp = s.inp := rfl
@[simp] theorem State.markInConflict_out : (s.markInConflict).out = s.out := rfl
@[simp] theorem State.markInConflict_unread : (s.markInConflict).unread = s.unread := rfl
@[simp] theorem State.markInConflict_inConflict : (s.markInConflict).inConflict = true := rfl
@[simp] theorem State.markInConflict_outConflicts : (s.markInConflict).outConflicts = s.outConflicts := rfl
@[simp] theorem State.markInConflict_moves : (s.markInConflict).moves = s.moves := rfl
@[simp] theorem State.markInConflict_reads : (s.markInConflict).reads = s.reads := rfl
@[simp] theorem State.markInConflict_freeCtr : (s.markInConflict).freeCtr = s.freeCtr := rfl

@[simp] theorem State.markOutConflict_params (i : Nat) : (s.markOutConflict i).params = s.params := rfl
@[simp] theorem State.markOutConflict_width (i : Nat) : (s.markOutConflict i).width = s.width := rfl
@[simp] theorem State.markOutConflict_height (i : Nat) : (s.markOutConflict i).height = s.height := rfl
@[simp] theorem State.markOutConflict_ctrl (i : Nat) : (s.markOutConflict i).ctrl = s.ctrl := rfl
@[simp] theorem State.markOutConflict_widthWritten (i : Nat) : (s.markOutConflict i).widthWritten = s.widthWritten := rfl
@[simp] theorem State.markOutConflict_heightWritten (i : Nat) : (s.markOutConflict i).heightWritten = s.heightWritten := rfl
@[simp] theorem State.markOutConflict_ctrlWritten (i : Nat) : (s.markOutConflict i).ctrlWritten = s.ctrlWritten := rfl
@[simp] theorem State.markOutConflict_status (i : Nat) : (s.markOutConflict i).status = s.status := rfl
@[simp] theorem State.markOutConflict_cmd (i : Nat) : (s.markOutConflict i).cmd = s.cmd := rfl
@[simp] theorem State.markOutConflict_inp (i : Nat) : (s.markOutConflict i).inp = s.inp := rfl
@[simp] theorem State.markOutConflict_out (i : Nat) : (s.markOutConflict i).out = s.out := rfl
@[simp] theorem State.markOutConflict_unread (i : Nat) : (s.markOutConflict i).unread = s.unread := rfl
@[simp] theorem State.markOutConflict_inConflict (i : Nat) : (s.markOutConflict i).inConflict = s.inConflict := rfl
@[simp] theorem State.markOutConflict_outConflicts (i : Nat) : (s.markOutConflict i).outConflicts = insertRising i s.outConflicts := rfl
@[simp] theorem State.markOutConflict_moves (i : Nat) : (s.markOutConflict i).moves = s.moves := rfl
@[simp] theorem State.markOutConflict_reads (i : Nat) : (s.markOutConflict i).reads = s.reads := rfl
@[simp] theorem State.markOutConflict_freeCtr (i : Nat) : (s.markOutConflict i).freeCtr = s.freeCtr := rfl

@[simp] theorem State.clear_params : (s.clear).params = s.params := rfl
@[simp] theorem State.clear_width : (s.clear).width = 0 := rfl
@[simp] theorem State.clear_height : (s.clear).height = 0 := rfl
@[simp] theorem State.clear_ctrl : (s.clear).ctrl = 0 := rfl
@[simp] theorem State.clear_widthWritten : (s.clear).widthWritten = false := rfl
@[simp] theorem State.clear_heightWritten : (s.clear).heightWritten = false := rfl
@[simp] theorem State.clear_ctrlWritten : (s.clear).ctrlWritten = false := rfl
@[simp] theorem State.clear_status : (s.clear).status = statusIdle := rfl
@[simp] theorem State.clear_cmd : (s.clear).cmd = { ctrl := 0, width := 0, height := 0 } := rfl
@[simp] theorem State.clear_inp : (s.clear).inp = s.inp := rfl
@[simp] theorem State.clear_out : (s.clear).out = s.out := rfl
@[simp] theorem State.clear_unread : (s.clear).unread = s.windows := rfl
@[simp] theorem State.clear_inConflict : (s.clear).inConflict = false := rfl
@[simp] theorem State.clear_outConflicts : (s.clear).outConflicts = [] := rfl
@[simp] theorem State.clear_moves : (s.clear).moves = s.moves := rfl
@[simp] theorem State.clear_reads : (s.clear).reads = s.reads := rfl
@[simp] theorem State.clear_freeCtr : (s.clear).freeCtr = s.freeCtr := rfl

@[simp] theorem State.freeOut_params (n : Nat) : (s.freeOut n).params = s.params := rfl
@[simp] theorem State.freeOut_width (n : Nat) : (s.freeOut n).width = s.width := rfl
@[simp] theorem State.freeOut_height (n : Nat) : (s.freeOut n).height = s.height := rfl
@[simp] theorem State.freeOut_ctrl (n : Nat) : (s.freeOut n).ctrl = s.ctrl := rfl
@[simp] theorem State.freeOut_widthWritten (n : Nat) : (s.freeOut n).widthWritten = s.widthWritten := rfl
@[simp] theorem State.freeOut_heightWritten (n : Nat) : (s.freeOut n).heightWritten = s.heightWritten := rfl
@[simp] theorem State.freeOut_ctrlWritten (n : Nat) : (s.freeOut n).ctrlWritten = s.ctrlWritten := rfl
@[simp] theorem State.freeOut_status (n : Nat) : (s.freeOut n).status = s.status := rfl
@[simp] theorem State.freeOut_cmd (n : Nat) : (s.freeOut n).cmd = s.cmd := rfl
@[simp] theorem State.freeOut_inp (n : Nat) : (s.freeOut n).inp = s.inp := rfl
@[simp] theorem State.freeOut_out (n : Nat) : (s.freeOut n).out = s.out.writeAll (freeWrites n s.freeCtr) := rfl
@[simp] theorem State.freeOut_unread (n : Nat) : (s.freeOut n).unread = s.unread := rfl
@[simp] theorem State.freeOut_inConflict (n : Nat) : (s.freeOut n).inConflict = s.inConflict := rfl
@[simp] theorem State.freeOut_outConflicts (n : Nat) : (s.freeOut n).outConflicts = s.outConflicts := rfl
@[simp] theorem State.freeOut_moves (n : Nat) : (s.freeOut n).moves = s.moves := rfl
@[simp] theorem State.freeOut_reads (n : Nat) : (s.freeOut n).reads = s.reads := rfl
@[simp] theorem State.freeOut_freeCtr (n : Nat) : (s.freeOut n).freeCtr = s.freeCtr + n := rfl

/-- The turns to come bear on neither STATUS nor the windows. -/
@[simp] theorem busy_setMoves (ms : List Move) : busy (s.setMoves ms) = busy s := rfl
@[simp] theorem done_setMoves (ms : List Move) : done (s.setMoves ms) = done s := rfl
@[simp] theorem State.windows_setMoves (ms : List Move) : (s.setMoves ms).windows = s.windows := rfl
@[simp] theorem State.setMoves_setMoves (ms ns : List Move) :
    (s.setMoves ms).setMoves ns = s.setMoves ns := rfl

/-- Freeing no cell changes nothing. -/
theorem State.freeOut_zero : s.freeOut 0 = s := rfl

theorem State.observe_eq (number : Nat) :
    s.observe number = if number = 4 && done s then s.closeWindow else s := rfl

end Sys2Proof.Machine
end

