-- ==== Sys2Proof/Laws/Memory.lean ====
section
/-! SUPPORT. The laws of a sample space: read after write, and the canonical form every operation keeps. -/

namespace Sys2Proof.Machine

@[simp] theorem Memory.read_nil (i : Nat) : Memory.read [] i = 0#16 := rfl

theorem Memory.read_cons (a : Nat) (v : Sample) (t : Memory) (i : Nat) :
    Memory.read ((a, v) :: t) i = if a = i then v else Memory.read t i := rfl

theorem Memory.wf_nil : Memory.wf [] := ⟨.nil, by simp⟩

theorem Memory.wf_cons {a : Nat} {v : Sample} {t : Memory} :
    Memory.wf ((a, v) :: t) ↔ (∀ c ∈ t, a < c.1) ∧ v ≠ 0#16 ∧ Memory.wf t := by
  simp only [Memory.wf, List.pairwise_cons, List.forall_mem_cons]
  tauto

/-- A cell below every listed cell reads as unlisted. -/
theorem Memory.read_eq_zero_of_forall_ne {m : Memory} {i : Nat} (h : ∀ c ∈ m, c.1 ≠ i) :
    Memory.read m i = 0#16 := by
  induction m with
  | nil => rfl
  | cons c t ih =>
    obtain ⟨a, v⟩ := c
    rw [Memory.read_cons, if_neg (h (a, v) (by simp))]
    exact ih fun c hc => h c (by simp [hc])

/-- The cells listed after a write: those listed before, and the written one. -/
theorem Memory.mem_write {m : Memory} {i : Nat} {v : Sample} {c : Nat × Sample}
    (h : c ∈ m.write i v) : c ∈ m ∨ (c = (i, v) ∧ v ≠ 0#16) := by
  induction m with
  | nil =>
    simp only [Memory.write] at h
    split at h <;> simp_all
  | cons d t ih =>
    obtain ⟨a, w⟩ := d
    simp only [Memory.write] at h
    split at h
    · split at h <;> simp_all
      tauto
    · split at h
      · split at h <;> simp_all
        tauto
      · rcases List.mem_cons.1 h with rfl | h
        · exact .inl (by simp)
        · rcases ih h with h | h
          · exact .inl (List.mem_cons_of_mem _ h)
          · exact .inr h

/-- Read after write, in canonical form: the written cell reads the value, every other as before. -/
theorem Memory.read_write {m : Memory} (hm : m.wf) (i j : Nat) (v : Sample) :
    (m.write i v).read j = if i = j then v else m.read j := by
  induction m with
  | nil =>
    by_cases hv : v = 0#16 <;> simp [Memory.write, Memory.read_cons, hv]
  | cons d t ih =>
    obtain ⟨a, w⟩ := d
    obtain ⟨hlt, hw, ht⟩ := Memory.wf_cons.1 hm
    simp only [Memory.write]
    split
    next hia =>
      have hzero : Memory.read ((a, w) :: t) i = 0#16 :=
        Memory.read_eq_zero_of_forall_ne fun c hc => by
          rcases List.mem_cons.1 hc with rfl | hc
          · simp; omega
          · have := hlt c hc; omega
      by_cases hv : v = 0#16
      · by_cases hij : i = j
        · subst hij; simp [hv, hzero]
        · simp [hv, hij]
      · simp only [hv, if_false, Memory.read_cons (a := i)]
    next hia =>
      split
      next heq =>
        subst heq
        have hzero : Memory.read t i = 0#16 :=
          Memory.read_eq_zero_of_forall_ne fun c hc => by have := hlt c hc; omega
        by_cases hv : v = 0#16
        · by_cases hij : i = j
          · subst hij; simp [hv, hzero]
          · simp [hv, hij, Memory.read_cons]
        · simp only [hv, if_false, Memory.read_cons]
          by_cases hij : i = j <;> simp [hij]
      next hne =>
        rw [Memory.read_cons, Memory.read_cons, ih ht]
        by_cases haj : a = j
        · have : i ≠ j := by omega
          simp [haj, this]
        · simp [haj]

/-- A write keeps the canonical form. -/
theorem Memory.wf_write {m : Memory} (hm : m.wf) (i : Nat) (v : Sample) : (m.write i v).wf := by
  induction m with
  | nil =>
    simp only [Memory.write]
    split
    · exact Memory.wf_nil
    next hv => exact Memory.wf_cons.2 ⟨by simp, hv, Memory.wf_nil⟩
  | cons d t ih =>
    obtain ⟨a, w⟩ := d
    obtain ⟨hlt, hw, ht⟩ := Memory.wf_cons.1 hm
    simp only [Memory.write]
    split
    next hia =>
      split
      · exact hm
      next hv =>
        refine Memory.wf_cons.2 ⟨fun c hc => ?_, hv, hm⟩
        rcases List.mem_cons.1 hc with rfl | hc
        · exact hia
        · have := hlt c hc; omega
    next hia =>
      split
      next heq =>
        subst heq
        split
        · exact ht
        next hv => exact Memory.wf_cons.2 ⟨hlt, hv, ht⟩
      next hne =>
        refine Memory.wf_cons.2 ⟨fun c hc => ?_, hw, ih ht⟩
        rcases Memory.mem_write hc with hc | ⟨rfl, -⟩
        · exact hlt c hc
        · simp; omega

/-- In canonical form a listed cell reads the value it lists. -/
theorem Memory.read_of_mem {m : Memory} (hm : m.wf) {c : Nat × Sample} (hc : c ∈ m) :
    m.read c.1 = c.2 := by
  induction m with
  | nil => simp at hc
  | cons d t ih =>
    obtain ⟨a, w⟩ := d
    obtain ⟨hlt, hw, ht⟩ := Memory.wf_cons.1 hm
    rcases List.mem_cons.1 hc with rfl | hc
    · simp [Memory.read_cons]
    · have := hlt c hc
      rw [Memory.read_cons, if_neg (by omega), ih ht hc]

/-- A cell that does not read 0 is listed. -/
theorem Memory.mem_of_read_ne_zero {m : Memory} {i : Nat} (h : m.read i ≠ 0#16) : (i, m.read i) ∈ m := by
  induction m with
  | nil => simp at h
  | cons d t ih =>
    obtain ⟨a, w⟩ := d
    rw [Memory.read_cons] at h ⊢
    by_cases hai : a = i
    · simp [hai]
    · rw [if_neg hai] at h ⊢
      exact List.mem_cons_of_mem _ (ih h)

@[simp] theorem Memory.writeAll_nil (m : Memory) : m.writeAll [] = m := rfl

theorem Memory.writeAll_cons (m : Memory) (w : Nat × Sample) (ws : List (Nat × Sample)) :
    m.writeAll (w :: ws) = (m.write w.1 w.2).writeAll ws := rfl

/-- Several writes keep the canonical form. -/
theorem Memory.wf_writeAll {m : Memory} (hm : m.wf) (ws : List (Nat × Sample)) :
    (m.writeAll ws).wf := by
  induction ws generalizing m with
  | nil => exact hm
  | cons w ws ih => exact ih (Memory.wf_write hm w.1 w.2)

/-- The cells listed after several writes: those listed before, and written ones. -/
theorem Memory.mem_writeAll {m : Memory} {ws : List (Nat × Sample)} {c : Nat × Sample}
    (h : c ∈ m.writeAll ws) : c ∈ m ∨ c ∈ ws := by
  induction ws generalizing m with
  | nil => exact .inl h
  | cons w ws ih =>
    rcases ih h with h | h
    · rcases Memory.mem_write h with h | ⟨rfl, -⟩
      · exact .inl h
      · simp
    · simp [h]

/-- A cell that none of several writes names reads as before. -/
theorem Memory.read_writeAll_of_not_mem {m : Memory} (hm : m.wf) {ws : List (Nat × Sample)} {i : Nat}
    (h : ∀ w ∈ ws, w.1 ≠ i) : (m.writeAll ws).read i = m.read i := by
  induction ws generalizing m with
  | nil => rfl
  | cons w ws ih =>
    rw [Memory.writeAll_cons, ih (Memory.wf_write hm _ _) fun x hx => h x (by simp [hx]),
      Memory.read_write hm, if_neg (h w (by simp))]

/-- A cell named by one of several writes to distinct cells reads the value written. -/
theorem Memory.read_writeAll_of_mem {m : Memory} (hm : m.wf) {ws : List (Nat × Sample)}
    (hd : (ws.map Prod.fst).Nodup) {w : Nat × Sample} (hw : w ∈ ws) :
    (m.writeAll ws).read w.1 = w.2 := by
  induction ws generalizing m with
  | nil => simp at hw
  | cons u ws ih =>
    rw [List.map_cons, List.nodup_cons] at hd
    rw [Memory.writeAll_cons]
    rcases List.mem_cons.1 hw with rfl | hw
    · rw [Memory.read_writeAll_of_not_mem (Memory.wf_write hm _ _), Memory.read_write hm, if_pos rfl]
      exact fun x hx heq => hd.1 (heq ▸ List.mem_map_of_mem hx)
    · exact ih (Memory.wf_write hm _ _) hd.2 hw

/-- Free values reach exactly the cells below `n`. -/
theorem Memory.read_freeWrites {m : Memory} (hm : m.wf) (n ctr i : Nat) :
    (m.writeAll (freeWrites n ctr)).read i =
      if i < n then Config.freeSample (ctr + i) else m.read i := by
  by_cases hi : i < n
  · rw [if_pos hi]
    refine Memory.read_writeAll_of_mem (w := (i, Config.freeSample (ctr + i))) hm ?_ ?_
    · have : (freeWrites n ctr).map Prod.fst = List.range n := by
        simp [freeWrites, List.map_map, Function.comp_def]
      rw [this]; exact List.nodup_range
    · simp only [freeWrites, List.mem_map, List.mem_range]
      exact ⟨i, hi, rfl⟩
  · rw [if_neg hi]
    refine Memory.read_writeAll_of_not_mem hm fun w hw => ?_
    simp only [freeWrites, List.mem_map, List.mem_range] at hw
    obtain ⟨j, hj, rfl⟩ := hw
    simp; omega

/-- `exceedsByte` says what its rule says of the cells (20_memory.md R41). -/
theorem Memory.exceedsByte_eq_false {m : Memory} (hm : m.wf) (n : Nat) :
    m.exceedsByte n = false ↔ ∀ i < n, (m.read i).toNat ≤ 255 := by
  simp only [Memory.exceedsByte, List.any_eq_false, Bool.and_eq_true, decide_eq_true_eq, not_and,
    not_lt]
  constructor
  · intro h i hi
    by_cases h0 : m.read i = 0#16
    · simp [h0]
    · exact h _ (Memory.mem_of_read_ne_zero h0) hi
  · intro h c hc hlt
    have := h c.1 hlt
    rwa [Memory.read_of_mem hm hc] at this

end Sys2Proof.Machine
end

