-- ==== Sys2Proof/Laws/Run.lean ====
section
/-! SUPPORT. What the run shared by the sixteen commands does: when it answers, and what each OUT cell
holds then. -/

namespace Sys2Proof.Machine

/-- Every arm of exec is the run of its opcode's method, depth and geometry (41_dispatcher.md R100). -/
theorem exec_eq_runMethod (i : Instr) (s : State) :
    exec i s = runMethod i.geometry i.depth i.pattern (methodValue i.method) s := by
  cases i <;> rfl

/-- All a run can do. -/
theorem runMethod_next {g : Geometry} {d : Depth} {p : Pattern} {M : View → Chan → Int → Int → Int}
    {s t : State} (h : runMethod g d p M s = .next t) :
    runRefusal g d s = none ∧ t = s.complete (runOut g (viewOf s d p) M s) (runCtr g s) := by
  unfold runMethod at h
  split at h
  · cases h
  next hr => exact ⟨hr, by cases h; rfl⟩

theorem runMethod_of_none {g : Geometry} {d : Depth} {p : Pattern} {M : View → Chan → Int → Int → Int}
    {s : State} (h : runRefusal g d s = none) :
    runMethod g d p M s = .next (s.complete (runOut g (viewOf s d p) M s) (runCtr g s)) := by
  unfold runMethod
  rw [h]

/-- When a run is not refused. -/
theorem runRefusal_eq_none {g : Geometry} {d : Depth} {s : State} :
    runRefusal g d s = none ↔
      s.params.ok = true ∧ s.cmd.widthLegal = true ∧ s.cmd.heightLegal = true ∧
        nIn s.cmd ≤ s.params.inLen ∧ nOutOf g s.cmd ≤ s.params.outLen ∧
        (d = .d8 → s.inConflict = false → s.inp.exceedsByte (nIn s.cmd) = false) := by
  simp only [runRefusal]
  repeat' split
  all_goals simp_all
  all_goals first | omega | (intros; simp_all)

/-- A run whose preconditions are met is not refused. -/
theorem RunReady.runRefusal {g : Geometry} {d : Depth} {s : State} (h : RunReady g d s) :
    runRefusal g d s = none :=
  runRefusal_eq_none.2
    ⟨h.paramsOk, decide_eq_true h.widthOk,
      decide_eq_true h.heightOk, h.inFits, h.outFits,
      fun hd _ => (Memory.exceedsByte_eq_false h.inpWf _).2 (h.depthOk hd)⟩

theorem RunReady.spoilt {g : Geometry} {d : Depth} {s : State} (h : RunReady g d s) :
    spoilt s = false := by
  simp [Machine.spoilt, h.inClean, h.outClean]

theorem chanIndex_lt (c : Chan) : chanIndex c < 3 := by
  cases c <;> decide

theorem chanIndex_inj {c e : Chan} (h : chanIndex c = chanIndex e) : c = e := by
  cases c <;> cases e <;> first | rfl | exact absurd h (by decide)

theorem outIndex_lt {cols rows x y : Nat} (hx : x < cols) (hy : y < rows) (c : Chan) :
    outIndex cols x y c < cols * rows * 3 := by
  have hc := chanIndex_lt c
  have h : y * cols + x + 1 ≤ cols * rows := by
    calc y * cols + x + 1 ≤ y * cols + cols := by omega
      _ = (y + 1) * cols := by ring
      _ ≤ rows * cols := Nat.mul_le_mul_right _ hy
      _ = cols * rows := Nat.mul_comm _ _
  unfold outIndex
  omega

/-- An OUT index names one position and one channel (20_memory.md R48). -/
theorem outIndex_inj {cols x y u v : Nat} {c e : Chan} (hx : x < cols) (hu : u < cols)
    (h : outIndex cols x y c = outIndex cols u v e) : x = u ∧ y = v ∧ c = e := by
  have hc := chanIndex_lt c
  have he := chanIndex_lt e
  unfold outIndex at h
  have hce : chanIndex c = chanIndex e := by omega
  have hp : y * cols + x = v * cols + u := by omega
  have hxu : x = u := by
    have := congrArg (· % cols) hp
    simpa [Nat.add_comm, Nat.mul_comm, Nat.mod_eq_of_lt, hx, hu] using this
  subst hxu
  have hyv : y * cols = v * cols := by omega
  exact ⟨rfl, Nat.eq_of_mul_eq_mul_right (by omega) hyv, chanIndex_inj hce⟩

/-- Every OUT cell of an image is some position's channel (20_memory.md R48, R49). -/
theorem exists_outIndex {cols rows a : Nat} (h : a < cols * rows * 3) :
    ∃ x y c, x < cols ∧ y < rows ∧ outIndex cols x y c = a := by
  have hp : a / 3 < cols * rows := by omega
  have hcols : 0 < cols := by
    rcases Nat.eq_zero_or_pos cols with h0 | h0
    · simp [h0] at hp
    · exact h0
  have hy : a / 3 / cols < rows := Nat.div_lt_of_lt_mul hp
  have hx : a / 3 % cols < cols := Nat.mod_lt _ hcols
  have hd : a / 3 / cols * cols + a / 3 % cols = a / 3 := Nat.div_add_mod' _ _
  have hm : a % 3 = 0 ∨ a % 3 = 1 ∨ a % 3 = 2 := by omega
  rcases hm with hm | hm | hm
  · exact ⟨_, _, .r, hx, hy, by unfold outIndex; rw [hd]; simp [chanIndex]; omega⟩
  · exact ⟨_, _, .g, hx, hy, by unfold outIndex; rw [hd]; simp [chanIndex]; omega⟩
  · exact ⟨_, _, .b, hx, hy, by unfold outIndex; rw [hd]; simp [chanIndex]; omega⟩

/-- The writes of an image are those of its positions and channels (41_dispatcher.md R103). -/
theorem mem_imageWrites {cols rows : Nat} {value : Nat → Nat → Chan → Sample} {w : Nat × Sample} :
    w ∈ imageWrites cols rows value ↔
      ∃ x y c, x < cols ∧ y < rows ∧ w = (outIndex cols x y c, value x y c) := by
  simp only [imageWrites, List.mem_flatMap, List.mem_map, List.mem_range]
  constructor
  · rintro ⟨y, hy, x, hx, c, -, rfl⟩
    exact ⟨x, y, c, hx, hy, rfl⟩
  · rintro ⟨x, y, c, hx, hy, rfl⟩
    exact ⟨y, hy, x, hx, c, by cases c <;> simp, rfl⟩

/-- The writes of an image are to distinct cells (20_memory.md R52). -/
theorem nodup_imageWrites (cols rows : Nat) (value : Nat → Nat → Chan → Sample) :
    ((imageWrites cols rows value).map Prod.fst).Nodup := by
  have hpix : ∀ x y : Nat, (([Chan.r, Chan.g, Chan.b].map fun c =>
      (outIndex cols x y c, value x y c)).map Prod.fst).Nodup := by
    intro x y
    simp [outIndex, chanIndex]
  rw [imageWrites, List.map_flatMap, List.nodup_flatMap]
  refine ⟨fun y _ => ?_, ?_⟩
  · rw [List.map_flatMap, List.nodup_flatMap]
    refine ⟨fun x _ => hpix x y, ?_⟩
    refine List.Pairwise.imp_of_mem ?_ (List.nodup_range (n := cols))
    intro x u hx hu hne a ha hb
    simp only [List.map_map, List.mem_map, List.mem_range] at ha hb hx hu
    obtain ⟨c, -, rfl⟩ := ha
    obtain ⟨e, -, he⟩ := hb
    exact hne (outIndex_inj hx hu (by simpa using he.symm)).1
  · refine List.Pairwise.imp_of_mem ?_ (List.nodup_range (n := rows))
    intro y v hy hv hne a ha hb
    simp only [List.map_flatMap, List.mem_flatMap, List.map_map, List.mem_map, List.mem_range]
      at ha hb
    obtain ⟨x, hx, c, -, rfl⟩ := ha
    obtain ⟨u, hu, e, -, he⟩ := hb
    exact hne (outIndex_inj hx hu (by simpa using he.symm)).2.1

/-- After a run every OUT cell of the image holds its final value (41_dispatcher.md R103). -/
theorem read_runOut {g : Geometry} {v : View} {M : View → Chan → Int → Int → Int} {s : State}
    (hs : s.out.wf) {x y : Nat} (hx : x < outCols g s.cmd) (hy : y < outRows g s.cmd) (c : Chan) :
    (runOut g v M s).read (outIndex (outCols g s.cmd) x y c) =
      finalSample s (outIndex (outCols g s.cmd) x y c) (BitVec.ofInt 16 (M v c x y)) :=
  Memory.read_writeAll_of_mem (w := (_, _)) hs (nodup_imageWrites _ _ _)
    (mem_imageWrites.2 ⟨x, y, c, hx, hy, rfl⟩)

/-- A run leaves the OUT cells at and above its count as they were (20_memory.md R53). -/
theorem read_runOut_above {g : Geometry} {v : View} {M : View → Chan → Int → Int → Int} {s : State}
    (hs : s.out.wf) {a : Nat} (ha : nOutOf g s.cmd ≤ a) : (runOut g v M s).read a = s.out.read a := by
  refine Memory.read_writeAll_of_not_mem hs fun w hw => ?_
  obtain ⟨x, y, c, hx, hy, rfl⟩ := mem_imageWrites.1 hw
  have := outIndex_lt hx hy c
  unfold nOutOf at ha
  simp; omega

theorem wf_runOut {g : Geometry} {v : View} {M : View → Chan → Int → Int → Int} {s : State}
    (hs : s.out.wf) : (runOut g v M s).wf :=
  Memory.wf_writeAll hs _

/-- A run lists no OUT cell but those listed before and its own (20_memory.md R53). -/
theorem mem_runOut {g : Geometry} {v : View} {M : View → Chan → Int → Int → Int} {s : State}
    {c : Nat × Sample} (h : c ∈ runOut g v M s) : c ∈ s.out ∨ c.1 < nOutOf g s.cmd := by
  rcases Memory.mem_writeAll h with h | h
  · exact .inl h
  · obtain ⟨x, y, e, hx, hy, rfl⟩ := mem_imageWrites.1 h
    exact .inr (outIndex_lt hx hy e)

/-- With nothing spoilt a cell takes the run's value (20_memory.md R61). -/
theorem finalSample_clean {s : State} (hi : s.inConflict = false) (ho : s.outConflicts = []) (i : Nat)
    (v : Sample) : finalSample s i v = v := by
  simp [finalSample, hi, ho]

/-- With IN spoilt every cell takes a free value (20_memory.md R61). -/
theorem finalSample_spoilt {s : State} (hi : s.inConflict = true) (i : Nat) (v : Sample) :
    finalSample s i v = Config.freeSample (s.freeCtr + i) := by
  simp [finalSample, hi]

end Sys2Proof.Machine
end

