-- ==== Sys2Proof/Laws/Registers.lean ====
section
/-! SUPPORT. What HOST's accesses and the reset event can do. -/

namespace Sys2Proof.Machine

/-- When a START is accepted (41_dispatcher.md R101). -/
theorem startRefusal_eq_none {s : State} :
    startRefusal s = none ↔
      s.widthWritten = true ∧ s.heightWritten = true ∧ s.ctrlWritten = true ∧
        (liveCommand s).wellFormed = true ∧ nIn (liveCommand s) ≤ s.params.inLen ∧
        nOut (liveCommand s) ≤ s.params.outLen ∧
        (commandDepth (liveCommand s) = .d8 → s.inp.exceedsByte (nIn (liveCommand s)) = false) := by
  simp only [startRefusal, Command.wellFormed]
  repeat' split
  all_goals simp_all
  all_goals first | omega | (intros; simp_all)

/-- All a START can do (41_dispatcher.md R101). -/
theorem start_next {s t : State} (h : start s = .next t) :
    startRefusal s = none ∧ t = s.latch (liveCommand s) := by
  unfold start at h
  split at h
  · cases h
  next hr => exact ⟨hr, by cases h; rfl⟩

theorem start_of_none {s : State} (h : startRefusal s = none) :
    start s = .next (s.latch (liveCommand s)) := by
  unfold start
  rw [h]

/-- All a register write can do (30_encoding.md R76, 10_state.md R24). -/
theorem writeRegister_next {s t : State} {n v : Nat} (h : writeRegister s n v = .next t) :
    (n = 0 ∧ v < 2 ^ s.params.dimBits ∧ t = s.setWidth v) ∨
      (n = 1 ∧ v < 2 ^ s.params.dimBits ∧ t = s.setHeight v) ∨
      (n = 2 ∧ v < 256 ∧ t = s.setCtrl (BitVec.ofNat 8 v)) ∨
      (n = 3 ∧ v = 0 ∧ t = s) ∨
      (n = 3 ∧ v = 1 ∧ busy s = false ∧ startRefusal s = none ∧ t = s.latch (liveCommand s)) ∨
      (n = 4 ∧ v < 4 ∧ t = s) := by
  unfold writeRegister at h
  split at h
  · split at h
    next hv => cases h; exact .inl ⟨rfl, hv, rfl⟩
    · cases h
  · split at h
    next hv => cases h; exact .inr (.inl ⟨rfl, hv, rfl⟩)
    · cases h
  · split at h
    next hv => cases h; exact .inr (.inr (.inl ⟨rfl, hv, rfl⟩))
    · cases h
  · split at h
    next hv => cases h; exact .inr (.inr (.inr (.inl ⟨rfl, hv, rfl⟩)))
    · split at h
      next hv =>
        split at h
        · cases h
        next hb =>
          obtain ⟨hr, rfl⟩ := start_next h
          exact .inr (.inr (.inr (.inr (.inl ⟨rfl, hv, by simpa using hb, hr, rfl⟩))))
      · cases h
  · split at h
    next hv => cases h; exact .inr (.inr (.inr (.inr (.inr ⟨rfl, hv, rfl⟩))))
    · cases h
  · cases h

/-- All a register read can do (30_encoding.md R77, 10_state.md R24). -/
theorem readRegister_next {s t : State} {n : Nat} (h : readRegister s n = .next t) :
    ∃ v, regValue s n = .ok v ∧ t = (s.observe n).receive v := by
  unfold readRegister at h
  split at h
  · cases h
  next v hv => exact ⟨v, hv, by cases h; rfl⟩

/-- STATUS always reads (10_state.md R24, R27). -/
theorem readRegister_status (s : State) :
    readRegister s 4 = .next ((s.observe 4).receive s.status.toNat) := rfl

/-- What HOST learns from a read changes nothing but the windows. -/
theorem State.observe_cases (s : State) (n : Nat) :
    s.observe n = s ∨ (n = 4 ∧ done s = true ∧ s.observe n = s.closeWindow) := by
  rw [State.observe_eq]
  split
  next h =>
    simp only [Bool.and_eq_true, decide_eq_true_eq] at h
    exact .inr ⟨h.1, h.2, rfl⟩
  · exact .inl rfl

/-- The cells below `outBelow` are those some run owns (20_memory.md R49). -/
theorem lt_outBelow {a : Nat} {ks : List Command} : a < outBelow ks ↔ ∃ k ∈ ks, a < nOut k := by
  induction ks with
  | nil => simp [outBelow]
  | cons k ks ih =>
    have h : outBelow (k :: ks) = max (nOut k) (outBelow ks) := rfl
    rw [h, lt_max_iff, ih]
    simp

/-- A bound on every run's count bounds `outBelow`. -/
theorem outBelow_le {n : Nat} {ks : List Command} (h : ∀ k ∈ ks, nOut k ≤ n) : outBelow ks ≤ n := by
  by_contra hn
  obtain ⟨k, hk, hlt⟩ := lt_outBelow.1 (Nat.lt_of_not_le hn)
  exact absurd (h k hk) (by omega)

theorem State.mem_windows {s : State} {k : Command} :
    k ∈ s.windows ↔ (busy s = true ∧ k = s.cmd) ∨ k ∈ s.unread := by
  unfold State.windows
  split
  next h => simp [h]
  next h => simp [h]

/-- What a HOST write of IN spoils of the ended runs (70_reset_and_hazards.md R214). -/
theorem State.lt_spoiltBelow {s : State} {i a : Nat} :
    a < s.spoiltBelow i ↔ ∃ k ∈ s.unread, i < nIn k ∧ a < nOut k := by
  simp [State.spoiltBelow, lt_outBelow, and_assoc]

/-- What a write of IN spoils is seen from the ended runs alone. -/
theorem State.spoiltBelow_congr {s t : State} (h : t.unread = s.unread) (i : Nat) :
    t.spoiltBelow i = s.spoiltBelow i := by
  unfold State.spoiltBelow
  rw [h]

/-- A write at or above `N_in` of every open window spoils nothing. -/
theorem State.spoiltBelow_eq_zero {s : State} {i : Nat} (h : ∀ k ∈ s.windows, nIn k ≤ i) :
    s.spoiltBelow i = 0 := by
  by_contra h0
  obtain ⟨k, hk, hi, -⟩ := State.lt_spoiltBelow.1 (Nat.pos_of_ne_zero h0)
  exact absurd (h k (State.mem_windows.2 (.inr hk))) (by omega)

/-- After freeing, the cells below `n` are free values and the others as before. -/
theorem State.read_freeOut {s : State} (hs : s.out.wf) (n a : Nat) :
    (s.freeOut n).out.read a = if a < n then Config.freeSample (s.freeCtr + a) else s.out.read a :=
  Memory.read_freeWrites hs n s.freeCtr a

/-- A HOST write of IN within the space completes (20_memory.md R43). -/
theorem writeIn_of_lt {s : State} {i : Nat} (v : Sample) (h : i < s.params.inLen) :
    writeIn s i v = .next
      (if busy s && i < nIn s.cmd then
        ((s.setInp (s.inp.write i v)).freeOut (s.spoiltBelow i)).markInConflict
      else (s.setInp (s.inp.write i v)).freeOut (s.spoiltBelow i)) := by
  unfold writeIn
  rw [if_neg (by omega)]

/-- All a HOST write of IN can do (20_memory.md R43, R61; 70_reset_and_hazards.md R214). -/
theorem writeIn_next {s t : State} {i : Nat} {v : Sample} (h : writeIn s i v = .next t) :
    i < s.params.inLen ∧
      ((busy s = true ∧ i < nIn s.cmd ∧
          t = ((s.setInp (s.inp.write i v)).freeOut (s.spoiltBelow i)).markInConflict) ∨
        ((busy s = false ∨ nIn s.cmd ≤ i) ∧
          t = (s.setInp (s.inp.write i v)).freeOut (s.spoiltBelow i))) := by
  unfold writeIn at h
  split at h
  · cases h
  next hi =>
    cases h
    refine ⟨by omega, ?_⟩
    cases hb : busy s <;> by_cases hn : i < nIn s.cmd <;> simp [hn]
    omega

/-- All a HOST read of IN can do (20_memory.md R43). -/
theorem readIn_next {s t : State} {i : Nat} (h : readIn s i = .next t) :
    i < s.params.inLen ∧ t = s.receive (s.inp.read i).toNat := by
  unfold readIn at h
  split at h
  · cases h
  next hi => exact ⟨by omega, by cases h; rfl⟩

/-- All a HOST write of OUT can do (20_memory.md R44, R61; 70_reset_and_hazards.md R217). -/
theorem writeOut_next {s t : State} {i : Nat} {v : Sample} (h : writeOut s i v = .next t) :
    i < s.params.outLen ∧
      ((busy s = true ∧ i < nOut s.cmd ∧ t = s.markOutConflict i) ∨
        ((busy s = false ∨ nOut s.cmd ≤ i) ∧ i < outBelow s.unread ∧
          t = (s.setOut (s.out.write i (Config.freeSample s.freeCtr))).drawFree 1) ∨
        ((busy s = false ∨ nOut s.cmd ≤ i) ∧ outBelow s.unread ≤ i ∧
          t = s.setOut (s.out.write i v))) := by
  unfold writeOut at h
  split at h
  · cases h
  next hi =>
    refine ⟨by omega, ?_⟩
    split at h
    next hh =>
      simp only [Bool.and_eq_true, decide_eq_true_eq] at hh
      cases h; exact .inl ⟨hh.1, hh.2, rfl⟩
    next hh =>
      have hc : busy s = false ∨ nOut s.cmd ≤ i := by
        cases hb : busy s <;> simp [hb] at hh ⊢; omega
      split at h
      next hu => cases h; exact .inr (.inl ⟨hc, hu, rfl⟩)
      next hu => cases h; exact .inr (.inr ⟨hc, by omega, rfl⟩)

/-- All a HOST read of OUT can do (20_memory.md R44, R61; 70_reset_and_hazards.md R217). -/
theorem readOut_next {s t : State} {i : Nat} (h : readOut s i = .next t) :
    i < s.params.outLen ∧
      ((i < outBelow s.windows ∧ t = (s.receive (Config.freeSample s.freeCtr).toNat).drawFree 1) ∨
        (outBelow s.windows ≤ i ∧ t = s.receive (s.out.read i).toNat)) := by
  unfold readOut at h
  split at h
  · cases h
  next hi =>
    refine ⟨by omega, ?_⟩
    split at h
    next hw => cases h; exact .inl ⟨hw, rfl⟩
    next hw => cases h; exact .inr ⟨by omega, rfl⟩

/-- The reset event (70_reset_and_hazards.md R205, R207). -/
theorem resetEvent_cases (s : State) :
    (busy s = true ∧ resetEvent s = (s.freeOut (nOut s.cmd)).clear) ∨ (busy s = false ∧ resetEvent s = s.clear) := by
  unfold resetEvent
  split
  next h => exact .inl ⟨h, rfl⟩
  next h => exact .inr ⟨by simpa using h, rfl⟩

theorem mem_insertRising {i j : Nat} {l : List Nat} : j ∈ insertRising i l ↔ j = i ∨ j ∈ l := by
  induction l with
  | nil => simp [insertRising]
  | cons a t ih =>
    simp only [insertRising]
    split
    · simp
    · split
      next h => subst h; simp
      · simp only [List.mem_cons, ih]; tauto

theorem pairwise_insertRising {i : Nat} {l : List Nat} (h : l.Pairwise (· < ·)) :
    (insertRising i l).Pairwise (· < ·) := by
  induction l with
  | nil => simp [insertRising]
  | cons a t ih =>
    rw [List.pairwise_cons] at h
    simp only [insertRising]
    split
    next hi =>
      refine List.pairwise_cons.2 ⟨fun b hb => ?_, List.pairwise_cons.2 h⟩
      rcases List.mem_cons.1 hb with rfl | hb
      · exact hi
      · have := h.1 b hb; omega
    next hi =>
      split
      · exact List.pairwise_cons.2 h
      next hne =>
        refine List.pairwise_cons.2 ⟨fun b hb => ?_, ih h.2⟩
        rcases mem_insertRising.1 hb with rfl | hb
        · omega
        · exact h.1 b hb

end Sys2Proof.Machine
end

