-- ==== Sys2Proof/Laws/Engine.lean ====
section
/-! SUPPORT. What a step can do: the turns of the two agents. -/

namespace Sys2Proof.Machine

theorem statusBusy_busy {s : State} (h : s.status = statusBusy) : busy s = true := by
  simp only [busy, h]; decide

theorem statusDone_done {s : State} (h : s.status = statusDone) : done s = true := by
  simp only [done, h]; decide

/-- With a legal STATUS, BUSY means `0b01` (10_state.md R27). -/
theorem status_of_busy {s : State} (hl : s.status ≠ 0b11#2) (h : busy s = true) :
    s.status = statusBusy := by
  unfold busy at h
  unfold statusBusy
  revert hl h
  generalize s.status = b
  revert b
  decide

/-- With a legal STATUS, DONE means `0b10` (10_state.md R27). -/
theorem status_of_done {s : State} (hl : s.status ≠ 0b11#2) (h : done s = true) :
    s.status = statusDone := by
  unfold done at h
  unfold statusDone
  revert hl h
  generalize s.status = b
  revert b
  decide

/-- All ENGINE's turn can do (41_dispatcher.md R102, 60_exceptions.md R198). -/
theorem engineTurn_next {s t : State} (h : engineTurn s = .next t) :
    (s.status = statusBusy ∧ ∃ i, decode s.cmd.ctrl = .ok i ∧ exec i s = .next t) ∨
      (s.status ≠ statusBusy ∧ t = s) := by
  unfold engineTurn at h
  split at h
  next hs =>
    split at h
    next i hi => exact .inl ⟨hs, i, hi, h⟩
    · cases h
  next hs => exact .inr ⟨hs, by cases h; rfl⟩

/-- ENGINE's turn runs the command in CMD_L (41_dispatcher.md R102). -/
theorem engineTurn_of_decode {s : State} {i : Instr} (hs : s.status = statusBusy)
    (hi : decode s.cmd.ctrl = .ok i) : engineTurn s = exec i s := by
  unfold engineTurn
  rw [if_pos hs, hi]

/-- All HOST's polling loop can do (30_encoding.md R78). -/
theorem waitTurn_next {s t : State} {rest : List Move} (h : waitTurn s rest = .next t) :
    (done s = true ∧ t = ((s.setMoves rest).closeWindow).receive s.status.toNat) ∨
      (done s = false ∧ engineTurn s = .next t) := by
  unfold waitTurn at h
  split at h
  next hd =>
    rw [readRegister_status] at h
    cases h
    refine .inl ⟨hd, ?_⟩
    have hd' : done (s.setMoves rest) = true := hd
    simp [State.observe_eq, hd']
  next hd => exact .inr ⟨by simpa using hd, h⟩

/-- What a step is, by the turns to come. -/
theorem step_nil {s : State} (h : s.moves = []) : step s = engineTurn s := by
  simp only [step, nextTurn, h]

theorem step_cons {s : State} {m : Move} {rest : List Move} (h : s.moves = m :: rest) :
    step s = moveTurn m (s.setMoves rest) := by
  simp only [step, nextTurn, h]

/-- The decoder's answers: the command of the three fields, when the reserved bits are zero
(30_encoding.md R72, R73). -/
theorem decode_ok {c : BitVec 8} {i : Instr} (h : decode c = .ok i) :
    ctrlReserved c = 0 ∧
      i = Instr.ofOpcode (Depth.ofCode (ctrlDepth16 c)) (Method.ofCode (ctrlMethod c))
        (Pattern.ofCode (ctrlPattern c)) := by
  unfold decode at h
  split at h
  next hr => exact ⟨hr, by cases h; rfl⟩
  · cases h

@[simp] theorem method_ofOpcode (d : Depth) (m : Method) (p : Pattern) :
    (Instr.ofOpcode d m p).method = m := by
  cases d <;> cases m <;> rfl

@[simp] theorem depth_ofOpcode (d : Depth) (m : Method) (p : Pattern) :
    (Instr.ofOpcode d m p).depth = d := by
  cases d <;> cases m <;> rfl

@[simp] theorem pattern_ofOpcode (d : Depth) (m : Method) (p : Pattern) :
    (Instr.ofOpcode d m p).pattern = p := by
  cases d <;> cases m <;> rfl

/-- A legal CMD_L decodes (30_encoding.md R73). -/
theorem decode_of_legal {k : Command} (h : k.ctrlLegal = true) :
    ∃ i, decode k.ctrl = .ok i := by
  have h' : ctrlReserved k.ctrl = 0 := by simpa [Command.ctrlLegal] using h
  unfold decode
  rw [if_pos h']
  exact ⟨_, rfl⟩

/-- The count of the run's cells is that of the command (20_memory.md R49). -/
theorem nOutOf_of_decode {k : Command} {i : Instr} (h : decode k.ctrl = .ok i) :
    nOutOf i.geometry k = nOut k := by
  obtain ⟨-, rfl⟩ := decode_ok h
  simp [Instr.geometry, nOut, commandMethod]

/-- The depth of the run is that of the command (30_encoding.md R69). -/
theorem depth_of_decode {k : Command} {i : Instr} (h : decode k.ctrl = .ok i) :
    i.depth = commandDepth k := by
  obtain ⟨-, rfl⟩ := decode_ok h
  simp [commandDepth]

end Sys2Proof.Machine
end

