-- ==== Sys2Proof/Laws/Invariant.lean ====
section
/-! SUPPORT. The invariant through the updates of State, one at a time. -/

namespace Sys2Proof.Machine

/-- The invariant does not look at the turns, at what HOST has received or at the free-value counter. -/
theorem State.Inv.setMoves {s : State} (h : s.Inv) (ms : List Move) : (s.setMoves ms).Inv :=
  ⟨h.paramsOk, h.statusLegal, h.widthFits, h.heightFits, h.inpWf, h.outWf, h.inpBound, h.outBound,
    h.windowsLegal, h.depthOk, h.inConflictBusy, h.outConflictsBusy, h.outConflictsWf⟩

theorem State.Inv.receive {s : State} (h : s.Inv) (v : Nat) : (s.receive v).Inv :=
  ⟨h.paramsOk, h.statusLegal, h.widthFits, h.heightFits, h.inpWf, h.outWf, h.inpBound, h.outBound,
    h.windowsLegal, h.depthOk, h.inConflictBusy, h.outConflictsBusy, h.outConflictsWf⟩

theorem State.Inv.drawFree {s : State} (h : s.Inv) (n : Nat) : (s.drawFree n).Inv :=
  ⟨h.paramsOk, h.statusLegal, h.widthFits, h.heightFits, h.inpWf, h.outWf, h.inpBound, h.outBound,
    h.windowsLegal, h.depthOk, h.inConflictBusy, h.outConflictsBusy, h.outConflictsWf⟩

/-- OUT may be replaced by a canonical memory within OUT_LEN. -/
theorem State.Inv.setOut {s : State} (h : s.Inv) {m : Memory} (hw : m.wf)
    (hb : ∀ c ∈ m, c.1 < s.params.outLen) : (s.setOut m).Inv :=
  ⟨h.paramsOk, h.statusLegal, h.widthFits, h.heightFits, h.inpWf, hw, h.inpBound, hb,
    h.windowsLegal, h.depthOk, h.inConflictBusy, h.outConflictsBusy, h.outConflictsWf⟩

/-- The cells freed are below OUT_LEN. -/
theorem State.Inv.freeOut {s : State} (h : s.Inv) {n : Nat} (hn : n ≤ s.params.outLen) :
    (s.freeOut n).Inv := by
  refine (h.setOut (Memory.wf_writeAll h.outWf _) fun c hc => ?_).drawFree n
  rcases Memory.mem_writeAll hc with hc | hc
  · exact h.outBound c hc
  · obtain ⟨a, ha, rfl⟩ := List.mem_map.1 hc
    exact Nat.lt_of_lt_of_le (List.mem_range.1 ha) hn

/-- A write of IN keeps the invariant where no byte run in flight reads the cell. -/
theorem State.Inv.writeInp {s : State} (h : s.Inv) {i : Nat} (v : Sample) (hi : i < s.params.inLen)
    (hc : busy s = false ∨ nIn s.cmd ≤ i) : (s.setInp (s.inp.write i v)).Inv := by
  refine ⟨h.paramsOk, h.statusLegal, h.widthFits, h.heightFits, Memory.wf_write h.inpWf _ _, h.outWf,
    fun c hm => ?_, h.outBound, h.windowsLegal, fun hb hcl hd => ?_, h.inConflictBusy,
    h.outConflictsBusy, h.outConflictsWf⟩
  · rcases Memory.mem_write hm with hm | ⟨rfl, _⟩
    · exact h.inpBound c hm
    · exact hi
  · have hn : nIn s.cmd ≤ i := hc.resolve_left (by have : busy s = true := hb; simp [this])
    have hold := (Memory.exceedsByte_eq_false h.inpWf _).1 (h.depthOk hb hcl hd)
    refine (Memory.exceedsByte_eq_false (Memory.wf_write h.inpWf _ _) _).2 fun j hj => ?_
    have hj : j < nIn s.cmd := hj
    rw [Memory.read_write h.inpWf, if_neg (by omega)]
    exact hold j hj

/-- A write of IN during the run, marked as a conflict. -/
theorem State.Inv.writeInp_markInConflict {s : State} (h : s.Inv) {i : Nat} (v : Sample)
    (hi : i < s.params.inLen) (hb : busy s = true) :
    ((s.setInp (s.inp.write i v)).markInConflict).Inv := by
  refine ⟨h.paramsOk, h.statusLegal, h.widthFits, h.heightFits, Memory.wf_write h.inpWf _ _, h.outWf,
    fun c hm => ?_, h.outBound, h.windowsLegal, fun _ hcl _ => ?_, fun _ => hb,
    h.outConflictsBusy, h.outConflictsWf⟩
  · rcases Memory.mem_write hm with hm | ⟨rfl, _⟩
    · exact h.inpBound c hm
    · exact hi
  · exact absurd hcl (by simp)

/-- What a write of IN spoils of the ended runs lies within OUT. -/
theorem State.Inv.spoiltBelow_le {s : State} (h : s.Inv) (i : Nat) :
    s.spoiltBelow i ≤ s.params.outLen :=
  outBelow_le fun k hk =>
    (h.windowsLegal k (State.mem_windows.2 (.inr (List.mem_filter.1 hk).1))).2.2

/-- The run in flight passed START's checks (41_dispatcher.md R101). -/
theorem State.Inv.runLegal {s : State} (h : s.Inv) (hb : busy s = true) :
    s.cmd.wellFormed = true ∧ nIn s.cmd ≤ s.params.inLen ∧ nOut s.cmd ≤ s.params.outLen :=
  h.windowsLegal s.cmd (State.mem_windows.2 (.inl ⟨hb, rfl⟩))

end Sys2Proof.Machine
end

