-- ==== Sys2Proof/Laws/PerInstr.lean ====
section
/-! SUPPORT. Statements made once per command: the encoding's round trip. -/

namespace Sys2Proof.Laws.RoundTrip

/-- The command's CTRL value decodes to it (30_encoding.md R71, R73). -/
def Statement (i : Instr) : Prop := decode (encode i) = .ok i

theorem nearest8 (p : Pattern) : Statement (.nearest8 p) := by
  cases p <;> rfl

theorem simple8 (p : Pattern) : Statement (.simple8 p) := by
  cases p <;> rfl

theorem bilinear8 (p : Pattern) : Statement (.bilinear8 p) := by
  cases p <;> rfl

theorem hqlinear8 (p : Pattern) : Statement (.hqlinear8 p) := by
  cases p <;> rfl

theorem downsample8 (p : Pattern) : Statement (.downsample8 p) := by
  cases p <;> rfl

theorem edgesense8 (p : Pattern) : Statement (.edgesense8 p) := by
  cases p <;> rfl

theorem vng8 (p : Pattern) : Statement (.vng8 p) := by
  cases p <;> rfl

theorem ahd8 (p : Pattern) : Statement (.ahd8 p) := by
  cases p <;> rfl

theorem nearest16 (p : Pattern) : Statement (.nearest16 p) := by
  cases p <;> rfl

theorem simple16 (p : Pattern) : Statement (.simple16 p) := by
  cases p <;> rfl

theorem bilinear16 (p : Pattern) : Statement (.bilinear16 p) := by
  cases p <;> rfl

theorem hqlinear16 (p : Pattern) : Statement (.hqlinear16 p) := by
  cases p <;> rfl

theorem downsample16 (p : Pattern) : Statement (.downsample16 p) := by
  cases p <;> rfl

theorem edgesense16 (p : Pattern) : Statement (.edgesense16 p) := by
  cases p <;> rfl

theorem vng16 (p : Pattern) : Statement (.vng16 p) := by
  cases p <;> rfl

theorem ahd16 (p : Pattern) : Statement (.ahd16 p) := by
  cases p <;> rfl

end Sys2Proof.Laws.RoundTrip
end

