-- ==== Sys2Proof/Laws/Pixel.lean ====
section
/-! SUPPORT. What the operands can be: clamped coordinates, sample reads, neighbour counts, clamped values. -/

namespace Sys2Proof.Machine

theorem maxSample_nonneg (d : Depth) : 0 ≤ maxSample d := by
  cases d <;> decide

theorem maxSample_lt (d : Depth) : maxSample d < 2 ^ 16 := by
  cases d <;> decide

/-- `clamp` lands in `[0, MAX]` (00_scope.md R12). -/
theorem clamp_mem (d : Depth) (v : Int) : 0 ≤ clamp d v ∧ clamp d v ≤ maxSample d := by
  have := maxSample_nonneg d
  unfold clamp
  split
  · omega
  · split <;> omega

/-- `clamp` leaves a value of `[0, MAX]` alone (00_scope.md R12). -/
theorem clamp_of_mem {d : Depth} {v : Int} (h0 : 0 ≤ v) (h1 : v ≤ maxSample d) : clamp d v = v := by
  unfold clamp
  rw [if_neg (by omega), if_neg (by omega)]

theorem absDiff_eq_abs (a b : Int) : absDiff a b = abs (a - b) := by
  simp [absDiff]

theorem View.cell_nonneg (v : View) (i : Nat) : 0 ≤ v.cell i := by
  simp [View.cell]

/-- A clamped column is in range (20_memory.md R46). -/
theorem View.cx_mem {v : View} (h : 1 ≤ v.width) (x : Int) : 0 ≤ v.cx x ∧ v.cx x < v.width := by
  unfold View.cx
  omega

/-- A clamped row is in range (20_memory.md R46). -/
theorem View.cy_mem {v : View} (h : 1 ≤ v.height) (y : Int) : 0 ≤ v.cy y ∧ v.cy y < v.height := by
  unfold View.cy
  omega

theorem View.cx_of_mem {v : View} {x : Int} (h0 : 0 ≤ x) (h1 : x < v.width) : v.cx x = x := by
  unfold View.cx
  omega

theorem View.cy_of_mem {v : View} {y : Int} (h0 : 0 ≤ y) (h1 : y < v.height) : v.cy y = y := by
  unfold View.cy
  omega

theorem View.cx_cx {v : View} (h : 1 ≤ v.width) (x : Int) : v.cx (v.cx x) = v.cx x :=
  View.cx_of_mem (View.cx_mem h x).1 (View.cx_mem h x).2

theorem View.cy_cy {v : View} (h : 1 ≤ v.height) (y : Int) : v.cy (v.cy y) = v.cy y :=
  View.cy_of_mem (View.cy_mem h y).1 (View.cy_mem h y).2

/-- The cell a sample read names lies below `N_in` (20_memory.md R43, R46). -/
theorem View.sampleIndex_lt {v : View} (hw : 1 ≤ v.width) (hh : 1 ≤ v.height) (x y : Int) :
    (v.cy y * v.width + v.cx x).toNat < v.width * v.height := by
  obtain ⟨hx0, hx1⟩ := View.cx_mem hw x
  obtain ⟨hy0, hy1⟩ := View.cy_mem hh y
  have h : v.cy y * v.width + v.width ≤ (v.height : Int) * v.width := by
    have : (v.cy y + 1) * (v.width : Int) ≤ v.height * v.width :=
      Int.mul_le_mul_of_nonneg_right (by omega) (by omega)
    linarith
  have h0 : 0 ≤ v.cy y * (v.width : Int) := Int.mul_nonneg hy0 (by omega)
  have hc : ((v.width * v.height : Nat) : Int) = v.height * v.width := by push_cast; ring
  omega

theorem View.sample_nonneg (v : View) (x y : Int) : 0 ≤ v.sample x y := View.cell_nonneg v _

/-- In a legal view every sample read is in range (00_scope.md R17). -/
theorem View.Legal.sample_le {v : View} (h : v.Legal) (x y : Int) :
    v.sample x y ≤ maxSample v.depth :=
  h.samplesOk _ (View.sampleIndex_lt (by have := h.widthOk; omega) (by have := h.heightOk; omega) x y)

/-- Views that agree below `N_in` agree on every sample read (41_dispatcher.md R106). -/
theorem View.sample_congr {v w : View} (hw : 1 ≤ v.width) (hh : 1 ≤ v.height)
    (hwidth : w.width = v.width) (hheight : w.height = v.height)
    (h : ∀ i < v.width * v.height, v.cell i = w.cell i) (x y : Int) : v.sample x y = w.sample x y := by
  have hx : w.cx x = v.cx x := by simp [View.cx, hwidth]
  have hy : w.cy y = v.cy y := by simp [View.cy, hheight]
  unfold View.sample
  rw [hx, hy, hwidth]
  exact h _ (View.sampleIndex_lt hw hh x y)

/-- `k` is 1, 2 or 4 (40_pixel_addressing.md R90, R91). -/
theorem View.count_cases (v : View) (x y : Int) (c : Chan) :
    v.count x y c = 1 ∨ v.count x y c = 2 ∨ v.count x y c = 4 := by
  unfold View.count neighbours axialOffsets diagonalOffsets
  split
  · simp
  · split
    · split <;> simp
    · split <;> simp

/-- A ready run completes (41_dispatcher.md R102). -/
theorem exec_of_ready {i : Instr} {s : State} (h : RunReady i.geometry i.depth s) :
    exec i s = .next (s.complete
      (runOut i.geometry (viewOf s i.depth i.pattern) (methodValue i.method) s)
      (runCtr i.geometry s)) := by
  rw [exec_eq_runMethod]
  exact runMethod_of_none h.runRefusal

/-- The view of a ready run is legal, whatever the pattern. -/
theorem RunReady.legal {g : Geometry} {d : Depth} {s : State} (h : RunReady g d s) (p : Pattern) :
    (viewOf s d p).Legal where
  paramsOk := h.paramsOk
  widthOk := h.widthOk
  heightOk := h.heightOk
  samplesOk := by
    intro i hi
    show ((s.inp.read i).toNat : Int) ≤ maxSample d
    cases d
    · have := h.depthOk rfl i hi
      simp only [maxSample]
      omega
    · have := (s.inp.read i).isLt
      simp only [maxSample]
      omega

end Sys2Proof.Machine
end

