-- ==== Sys2Proof/Tests/Slice0.lean ====
section
/-! SUPPORT. Tests against the spec's own encodings, tables and vectors (95_test_vectors.md), and a witness for
the hypotheses of every statement that has some. -/

namespace Sys2Proof.Tests

open Sys2Proof.Machine

/-! ### Well-formedness: an ill-formed command for each check (30_encoding.md R72, 41_dispatcher.md R104) -/

theorem test_wellFormed : Command.wellFormed { ctrl := 0x3F#8, width := 2, height := 2 } = true := by decide
theorem test_illFormed_reserved :
    Command.wellFormed { ctrl := 0x42#8, width := 4, height := 4 } = false := by decide
theorem test_illFormed_width :
    Command.wellFormed { ctrl := 0x02#8, width := 1, height := 4 } = false := by decide
theorem test_illFormed_height :
    Command.wellFormed { ctrl := 0x02#8, width := 4, height := 0 } = false := by decide

/-! ### Decoding: CTRL written out bit by bit from 30_encoding.md R71, one word per row -/

theorem test_decode_nearest8 : decode 0b00000000#8 = .ok (.nearest8 .rggb) := rfl
theorem test_decode_simple8 : decode 0b00001001#8 = .ok (.simple8 .gbrg) := rfl
theorem test_decode_bilinear8 : decode 0b00010010#8 = .ok (.bilinear8 .grbg) := rfl
theorem test_decode_hqlinear8 : decode 0b00011011#8 = .ok (.hqlinear8 .bggr) := rfl
theorem test_decode_downsample8 : decode 0b00000100#8 = .ok (.downsample8 .rggb) := rfl
theorem test_decode_edgesense8 : decode 0b00001101#8 = .ok (.edgesense8 .gbrg) := rfl
theorem test_decode_vng8 : decode 0b00010110#8 = .ok (.vng8 .grbg) := rfl
theorem test_decode_ahd8 : decode 0b00011111#8 = .ok (.ahd8 .bggr) := rfl
theorem test_decode_nearest16 : decode 0b00100000#8 = .ok (.nearest16 .rggb) := rfl
theorem test_decode_simple16 : decode 0b00101001#8 = .ok (.simple16 .gbrg) := rfl
theorem test_decode_bilinear16 : decode 0b00110010#8 = .ok (.bilinear16 .grbg) := rfl
theorem test_decode_hqlinear16 : decode 0b00111011#8 = .ok (.hqlinear16 .bggr) := rfl
theorem test_decode_downsample16 : decode 0b00100100#8 = .ok (.downsample16 .rggb) := rfl
theorem test_decode_edgesense16 : decode 0b00101101#8 = .ok (.edgesense16 .gbrg) := rfl
theorem test_decode_vng16 : decode 0b00110110#8 = .ok (.vng16 .grbg) := rfl
theorem test_decode_ahd16 : decode 0b00111111#8 = .ok (.ahd16 .bggr) := rfl

/-- 95_test_vectors.md V-ENC: 0x40, 0x80, 0xC2, 0xFF name no command. -/
theorem test_decode_reserved :
    decode 0x40#8 = .error .reservedCtrlBits ∧ decode 0x80#8 = .error .reservedCtrlBits ∧
      decode 0xC2#8 = .error .reservedCtrlBits ∧ decode 0xFF#8 = .error .reservedCtrlBits :=
  ⟨rfl, rfl, rfl, rfl⟩

/-- 30_encoding.md R78: DECODE.AHD.16 BGGR writes CTRL = 0x3F. -/
theorem test_decodeMoves :
    decodeMoves (.ahd16 .bggr) 640 480 = [.wr 0 640, .wr 1 480, .wr 2 0x3F, .wr 3 1] := by decide

/-- 30_encoding.md R77: the tuples of WR and RD. -/
theorem test_tuples :
    Move.tuple (.wr 3 1) = some [1, 3, 1] ∧ Move.ofTuple [0, 4] = some (.rd 4) := by decide

/-! ### Small states -/

/-- 95_test_vectors.md T1. -/
def mosaicT1 : Memory :=
  [(0, 10), (1, 20), (2, 10), (3, 20), (4, 30), (5, 40), (6, 30), (7, 40),
    (8, 10), (9, 20), (10, 10), (11, 20), (12, 30), (13, 40), (14, 30), (15, 40)]

/-- T1 as a view, RGGB, 8 bits. -/
def viewT1 : View where
  params := Params.reference
  pattern := .rggb
  depth := .d8
  width := 4
  height := 4
  inp := mosaicT1

/-- The mosaic 1 2 3 4 of 95_test_vectors.md V-MIN. -/
def mosaicMin : Memory := [(0, 1), (1, 2), (2, 3), (3, 4)]

/-- A run of `i` in flight on V-MIN's mosaic, ENGINE's turn next. -/
def running (i : Instr) : State :=
  { State.reset with
    status := statusBusy
    cmd := { ctrl := encode i, width := 2, height := 2 }
    inp := mosaicMin
    moves := [.engine] }

/-- The same, started while a 4x4 run had ended and HOST had not read its DONE. -/
def runningUnread (ms : List Move) : State :=
  { running (.vng8 .rggb) with
    moves := ms, unread := [{ ctrl := encode (.bilinear8 .rggb), width := 4, height := 4 }] }

/-- V-MIN's mosaic and the registers of an 8-bit BILINEAR command written, no run yet. -/
def prepared (ms : List Move) : State :=
  { State.reset with
    width := 2
    height := 2
    ctrl := 0x02#8
    widthWritten := true
    heightWritten := true
    ctrlWritten := true
    inp := mosaicMin
    moves := ms }

/-- The OUT cell a step leaves, if it answers a next state. -/
def outCell (o : Host.Outcome State Fault Refusal) (a : Nat) : Option Nat :=
  match o with
  | .next t => some (t.out.read a).toNat
  | .fault _ => none
  | .refused _ => none

/-- The STATUS a step leaves. -/
def statusOf (o : Host.Outcome State Fault Refusal) : Option (BitVec 2) :=
  match o with
  | .next t => some t.status
  | .fault _ => none
  | .refused _ => none

/-- Why a step is refused. -/
def refusalOf (o : Host.Outcome State Fault Refusal) : Option Refusal :=
  match o with
  | .next _ => none
  | .fault _ => none
  | .refused r => some r

/-- The values HOST has received after a step. -/
def readsOf (o : Host.Outcome State Fault Refusal) : Option (List Nat) :=
  match o with
  | .next t => some t.reads
  | .fault _ => none
  | .refused _ => none

/-! ### The arithmetic and the view: 00_scope.md R12, 95_test_vectors.md V-PIX and V-MEM -/

theorem test_tdiv : tdiv (-3) 8 = 0 ∧ tdiv (-9) 4 = -2 ∧ tdiv 9 4 = 2 := by decide
theorem test_color :
    color .rggb (-1) (-1) = .b ∧ color .gbrg 2 3 = .r ∧ color .grbg 0 (-1) = .b ∧ color .bggr 5 4 = .g := by
  decide
theorem test_sample :
    viewT1.sample (-1) 1 = 30 ∧ viewT1.sample 1 (-1) = 20 ∧ viewT1.sample 4 2 = 20 ∧
      viewT1.sample (-1) 5 = 30 ∧ viewT1.sample 5 5 = 40 := by decide
theorem test_outIndex : outIndex 4 2 1 .g = 19 ∧ outIndex 2 1 1 .b = 11 := by decide
/-- 40_pixel_addressing.md R91, worked example. -/
theorem test_nsum : viewT1.nsum 1 1 .g = 100 ∧ viewT1.nsum 1 1 .r = 40 := by decide
/-- 20_memory.md R42: little-endian, the low byte at the lower address. -/
theorem test_byteView :
    byteView Params.reference [(1, 0xABCD)] 2 = 0xCD ∧ byteView Params.reference [(1, 0xABCD)] 3 = 0xAB := by
  decide

/-! ### The methods on T1 and on V-MIN (95_test_vectors.md Part 2) -/

/-- V-NEAR-1: `(0,2)` green is 30, the north one. -/
theorem test_nearest_T1 : nearest viewT1 .g 0 2 = 30 := by decide
/-- V-SIM-1: `(0,0)` green is 17. -/
theorem test_simple_T1 : simple viewT1 .g 0 0 = 17 := by decide
/-- V-BIL-1, the golden case: `(1,1)` is (10, 25, 40). -/
theorem test_bilinear_T1 :
    bilinear viewT1 .r 1 1 = 10 ∧ bilinear viewT1 .g 1 1 = 25 ∧ bilinear viewT1 .b 1 1 = 40 := by decide
/-- V-HQ-1: `(1,2)` is (8, 20, 38). -/
theorem test_hqlinear_T1 : hqlinear viewT1 .r 1 2 = 8 ∧ hqlinear viewT1 .b 1 2 = 38 := by decide
/-- V-DOWN-1. -/
theorem test_downsample_T1 :
    downsample viewT1 .r 1 1 = 10 ∧ downsample viewT1 .g 1 1 = 25 ∧ downsample viewT1 .b 1 1 = 40 := by decide
/-- V-EDGE-1: `(3,3)` green is 35, the horizontal branch. -/
theorem test_edgesense_T1 : edgesense viewT1 .g 3 3 = 35 := by decide
/-- V-VNG-1: `(2,1)` is (12, 30, 38). -/
theorem test_vng_T1 : vng viewT1 .r 2 1 = 12 ∧ vng viewT1 .b 2 1 = 38 := by decide
/-- V-AHD-3: `GK_V(0,2)` is 25 and `GK_H(1,1)` is 32. -/
theorem test_ahd_greenPlane :
    viewT1.greenPlane .vertical 0 2 = 25 ∧ viewT1.greenPlane .horizontal 1 1 = 32 := by decide
/-- 46_ahd.md R168, worked example: red of `CAND_V(1,1)` is 13 (a floor would give 12). -/
theorem test_ahd_candidate : viewT1.candidate .vertical .r 1 1 = 13 := by decide

/-- V-AHD-3: at `(0,0)` the scores are 3 and 5. -/
theorem test_ahd_homogeneity :
    viewT1.homogeneity .horizontal 0 0 = 3 ∧ viewT1.homogeneity .vertical 0 0 = 5 := by decide

/-! One step of each command on V-MIN's mosaic (95_test_vectors.md V-MIN, V-NEAR-3, V-DOWN-2), RGGB. -/

/-- green of (0,1). -/
theorem test_step_nearest8 : outCell (step (running (.nearest8 .rggb))) 7 = some 3 := by decide
/-- blue of (0,1). -/
theorem test_step_simple8 : outCell (step (running (.simple8 .rggb))) 8 = some 3 := by decide
/-- blue of (1,0). -/
theorem test_step_bilinear8 : outCell (step (running (.bilinear8 .rggb))) 5 = some 3 := by decide
/-- blue of (1,0). -/
theorem test_step_hqlinear8 : outCell (step (running (.hqlinear8 .rggb))) 5 = some 2 := by decide
/-- green. -/
theorem test_step_downsample8 : outCell (step (running (.downsample8 .rggb))) 1 = some 2 := by decide
/-- blue of (1,0). -/
theorem test_step_edgesense8 : outCell (step (running (.edgesense8 .rggb))) 5 = some 3 := by decide
/-- blue of (1,0). -/
theorem test_step_vng8 : outCell (step (running (.vng8 .rggb))) 5 = some 2 := by decide
/-- blue of (0,1). -/
theorem test_step_ahd8 : outCell (step (running (.ahd8 .rggb))) 8 = some 3 := by decide
/-- green of (0,1). -/
theorem test_step_nearest16 : outCell (step (running (.nearest16 .rggb))) 7 = some 3 := by decide
/-- blue of (0,1). -/
theorem test_step_simple16 : outCell (step (running (.simple16 .rggb))) 8 = some 3 := by decide
/-- blue of (1,0). -/
theorem test_step_bilinear16 : outCell (step (running (.bilinear16 .rggb))) 5 = some 3 := by decide
/-- blue of (1,0). -/
theorem test_step_hqlinear16 : outCell (step (running (.hqlinear16 .rggb))) 5 = some 2 := by decide
/-- green. -/
theorem test_step_downsample16 : outCell (step (running (.downsample16 .rggb))) 1 = some 2 := by decide
/-- blue of (1,0). -/
theorem test_step_edgesense16 : outCell (step (running (.edgesense16 .rggb))) 5 = some 3 := by decide
/-- blue of (1,0). -/
theorem test_step_vng16 : outCell (step (running (.vng16 .rggb))) 5 = some 2 := by decide

/-- A completed run leaves STATUS `0b10` (41_dispatcher.md R102). -/
theorem test_step_ahd16 : statusOf (step (running (.ahd16 .rggb))) = some 0b10#2 := by decide

/-! ### START beside its refusals (95_test_vectors.md V-REF) -/

theorem test_start_unwritten :
    refusalOf (step { prepared [.wr 3 1] with ctrlWritten := false }) = some .unwrittenRegister := by decide
theorem test_start_reserved :
    refusalOf (step { prepared [.wr 3 1] with ctrl := 0x42#8 }) = some .reservedCtrlBits := by decide
theorem test_start_small :
    refusalOf (step { prepared [.wr 3 1] with width := 1 }) = some .dimensionTooSmall := by decide
/-- V-REF 4 and 4a: OUT_LEN = 47 is short for BILINEAR, OUT_LEN = 12 enough for DOWNSAMPLE. -/
theorem test_start_short :
    refusalOf (step { prepared [.wr 3 1] with
      width := 4, height := 4, params := { inLen := 16, outLen := 47 } }) = some .bufferTooSmall := by decide
theorem test_start_downsample :
    statusOf (step { prepared [.wr 3 1] with
      ctrl := 0x04#8, width := 4, height := 4, params := { inLen := 16, outLen := 12 } }) =
      some 0b01#2 := by decide
/-- V-REF 5, 5a, 5b. -/
theorem test_start_depth :
    refusalOf (step { prepared [.wr 3 1] with ctrl := 0, inp := [(2, 256)] }) = some .depthMismatch := by
  decide
theorem test_start_depth16 :
    statusOf (step { prepared [.wr 3 1] with ctrl := 0x20#8, inp := [(2, 256)] }) = some 0b01#2 := by decide
theorem test_start_above :
    statusOf (step { prepared [.wr 3 1] with ctrl := 0, inp := [(4, 256)] }) = some 0b01#2 := by decide
/-- V-REF 6 and 6a. -/
theorem test_start_busy :
    refusalOf (step { prepared [.wr 3 1] with status := 0b01#2 }) = some .startWhileBusy := by decide
theorem test_start_done :
    statusOf (step { prepared [.wr 3 1] with status := 0b10#2 }) = some 0b01#2 := by decide
/-- V-REF 7 and 8. -/
theorem test_wide :
    refusalOf (step (prepared [.wr 0 0x100000000])) = some .valueTooWide ∧
      refusalOf (step (prepared [.wr 2 0x100])) = some .valueTooWide := by decide
theorem test_noRegister :
    refusalOf (step (prepared [.rd 3])) = some .startWriteOnly ∧
      refusalOf (step (prepared [.wr 5 0])) = some .noSuchRegister ∧
      refusalOf (step (prepared [.rd 7])) = some .noSuchRegister := by decide
/-- 95_test_vectors.md P1: RD STATUS before the run step returns 1. -/
theorem test_readStatus :
    readsOf (step { prepared [.rd 4] with status := 0b01#2 }) = some [1] := by decide

/-! ### The window of HOST's duties (70_reset_and_hazards.md R214, R217) -/

/-- How many free values a step draws. -/
def drawsOf (o : Host.Outcome State Fault Refusal) : Option Nat :=
  match o with
  | .next t => some t.freeCtr
  | .fault _ => none
  | .refused _ => none

/-- A START leaves the earlier run's window open: its last OUT cell reads as any value, its last IN cell
written spoils all 48 of its OUT cells. -/
theorem test_window_outlives_start :
    drawsOf (step (runningUnread [.rdOut 47])) = some 1 ∧
      drawsOf (step (runningUnread [.wrOut 47 1])) = some 1 ∧
      drawsOf (step (runningUnread [.wrIn 15 1])) = some 48 := by decide
/-- Above `N_out` of the only run nothing is drawn; a read of DONE closes every window. -/
theorem test_window_closes :
    drawsOf (step ((running (.vng8 .rggb)).setMoves [.rdOut 12])) = some 0 ∧
      (State.observe { runningUnread [] with status := 0b10#2 } 4).windows = [] := by decide

/-! ### The host's probe: each row of the table runs first after reset -/

/-- A row's word is its match; the step runs and completes. -/
def probe (w : Nat) : Bool :=
  (decodeTableWord 8 w).isSome && statusOf (step (State.reset.withFetchWord 8 w)) = some 0b10#2

theorem test_probe8 : [0x00, 0x01, 0x02, 0x03, 0x04, 0x05, 0x06, 0x07].all probe = true := by decide
theorem test_probe16 : [0x20, 0x21, 0x22, 0x23, 0x24, 0x25, 0x26, 0x27].all probe = true := by decide

/-! ### Witnesses: for every statement with hypotheses, a state and operands that meet them all -/

/-- Every command has a ready run. -/
theorem ready_running (i : Instr) : RunReady i.geometry i.depth (running i) := by
  cases i <;> rename_i p <;> cases p <;>
    exact ⟨⟨by decide, by decide, by decide, by decide, by decide, by decide, by decide⟩,
      by unfold DepthFits; decide, by decide, by decide⟩

/-- A run in flight meets the invariant. -/
theorem inv_running : (running (.vng8 .rggb)).Inv :=
  ⟨by decide, by decide, by decide, by decide, by decide, by decide, by decide, by decide, by decide,
    by decide, by decide, by decide, by decide⟩

/-- So does one with an earlier window open. -/
theorem inv_runningUnread : (runningUnread []).Inv :=
  ⟨by decide, by decide, by decide, by decide, by decide, by decide, by decide, by decide, by decide,
    by decide, by decide, by decide, by decide⟩

theorem legal_viewT1 : viewT1.Legal :=
  ⟨by decide, by decide, by decide, by decide⟩

theorem witness_DecodedCtrlIsItsEncoding : ∃ c i, decode c = .ok i := ⟨0x3F#8, .ahd16 .bggr, rfl⟩

theorem witness_ReservedCtrlBitsNameNoCommand :
    ∃ s : State, s.widthWritten = true ∧ s.heightWritten = true ∧ s.ctrlWritten = true ∧
      busy s = false ∧ s.ctrl.extractLsb' 6 2 ≠ 0 :=
  ⟨{ prepared [] with ctrl := 0x42#8 }, by decide⟩

theorem witness_DecodePseudoInstructionRunsItsCommand :
    ∃ (i : Instr) (w h : Nat) (s : State),
      busy s = false ∧ s.moves = decodeMoves i w h ++ [.engine] ∧
      2 ≤ w ∧ 2 ≤ h ∧ w < 2 ^ s.params.dimBits ∧ h < 2 ^ s.params.dimBits ∧
      w * h ≤ s.params.inLen ∧
      nOutOf i.geometry { ctrl := encode i, width := w, height := h } ≤ s.params.outLen ∧
      Memory.wf s.inp ∧ (i.depth = .d8 → ∀ a < w * h, (s.inp.read a).toNat ≤ 255) :=
  ⟨.hqlinear8 .gbrg, 2, 2, prepared (decodeMoves (.hqlinear8 .gbrg) 2 2 ++ [.engine]), by decide⟩

theorem witness_SampleReadsReplicateEdges :
    1 ≤ viewT1.width ∧ 1 ≤ viewT1.height ∧ (3 : Int) < viewT1.width ∧ ((viewT1.width : Int) ≤ 4) := by decide

theorem witness_NearestTakesClosestSample :
    RunReady .full (Instr.depth (.nearest8 .rggb)) (running (.nearest8 .rggb)) ∧
      RunReady .full (Instr.depth (.nearest16 .rggb)) (running (.nearest16 .rggb)) :=
  ⟨ready_running (.nearest8 .rggb), ready_running (.nearest16 .rggb)⟩
theorem witness_SimpleAveragesAdjacentSamples :
    RunReady .full (Instr.depth (.simple8 .rggb)) (running (.simple8 .rggb)) ∧
      RunReady .full (Instr.depth (.simple16 .rggb)) (running (.simple16 .rggb)) :=
  ⟨ready_running (.simple8 .rggb), ready_running (.simple16 .rggb)⟩
theorem witness_BilinearAveragesSymmetricNeighbours :
    RunReady .full (Instr.depth (.bilinear8 .rggb)) (running (.bilinear8 .rggb)) ∧
      RunReady .full (Instr.depth (.bilinear16 .rggb)) (running (.bilinear16 .rggb)) :=
  ⟨ready_running (.bilinear8 .rggb), ready_running (.bilinear16 .rggb)⟩
theorem witness_HqlinearCorrectsByLaplacian :
    RunReady .full (Instr.depth (.hqlinear8 .rggb)) (running (.hqlinear8 .rggb)) ∧
      RunReady .full (Instr.depth (.hqlinear16 .rggb)) (running (.hqlinear16 .rggb)) :=
  ⟨ready_running (.hqlinear8 .rggb), ready_running (.hqlinear16 .rggb)⟩
theorem witness_DownsampleReducesEachTile :
    RunReady .half (Instr.depth (.downsample8 .rggb)) (running (.downsample8 .rggb)) ∧
      RunReady .half (Instr.depth (.downsample16 .rggb)) (running (.downsample16 .rggb)) :=
  ⟨ready_running (.downsample8 .rggb), ready_running (.downsample16 .rggb)⟩
theorem witness_EdgesenseFollowsLowerGradient :
    RunReady .full (Instr.depth (.edgesense8 .rggb)) (running (.edgesense8 .rggb)) ∧
      RunReady .full (Instr.depth (.edgesense16 .rggb)) (running (.edgesense16 .rggb)) :=
  ⟨ready_running (.edgesense8 .rggb), ready_running (.edgesense16 .rggb)⟩
theorem witness_VngAveragesValidDirections :
    RunReady .full (Instr.depth (.vng8 .rggb)) (running (.vng8 .rggb)) ∧
      RunReady .full (Instr.depth (.vng16 .rggb)) (running (.vng16 .rggb)) :=
  ⟨ready_running (.vng8 .rggb), ready_running (.vng16 .rggb)⟩
theorem witness_AhdTakesMoreHomogeneousCandidate :
    RunReady .full (Instr.depth (.ahd8 .rggb)) (running (.ahd8 .rggb)) ∧
      RunReady .full (Instr.depth (.ahd16 .rggb)) (running (.ahd16 .rggb)) :=
  ⟨ready_running (.ahd8 .rggb), ready_running (.ahd16 .rggb)⟩

theorem witness_AhdProjectionAndHomogeneity : viewT1.params.ahdProject = .opponent := by decide

theorem witness_EveryMethodStaysInRange :
    viewT1.Legal ∧
      3 < outCols (geometryOf .ahd) { ctrl := 0, width := viewT1.width, height := viewT1.height } ∧
      3 < outRows (geometryOf .ahd) { ctrl := 0, width := viewT1.width, height := viewT1.height } ∧
      1 < outCols (geometryOf .downsample) { ctrl := 0, width := viewT1.width, height := viewT1.height } :=
  ⟨legal_viewT1, by decide, by decide, by decide⟩

/-- A uniform mosaic of sevens. -/
def uniform (i : Instr) : State := { running i with inp := [(0, 7), (1, 7), (2, 7), (3, 7)] }

theorem witness_UniformFieldIsPreserved :
    RunReady (Instr.geometry (.ahd8 .rggb)) (Instr.depth (.ahd8 .rggb)) (uniform (.ahd8 .rggb)) ∧
      ∀ a < nIn (uniform (.ahd8 .rggb)).cmd, (uniform (.ahd8 .rggb)).inp.read a = 7 :=
  ⟨⟨⟨by decide, by decide, by decide, by decide, by decide, by decide, by decide⟩,
    by unfold DepthFits; decide, by decide, by decide⟩, by decide⟩

/-- The four corners of T1 for the closed form of NEAREST. -/
theorem witness_NearestHasClosedForm :
    2 ≤ viewT1.width ∧ 2 ≤ viewT1.height ∧ 0 < viewT1.width ∧ 3 < viewT1.width ∧ 3 < viewT1.height := by
  decide

theorem witness_NativeChannelIsTheInputSample : 3 < viewT1.width ∧ 3 < viewT1.height := by decide

/-- T1 at `(0,0)` has no Laplacian (95_test_vectors.md V-HQ-1). -/
theorem witness_HqlinearWithoutLaplacianIsBilinear : viewT1.Legal ∧ viewT1.laplacian 0 0 = 0 :=
  ⟨legal_viewT1, by decide⟩

/-- T1 at `(1,1)` has equal gradients (95_test_vectors.md V-EDGE-1). -/
theorem witness_EdgesenseWithinEpsilonIsBilinear :
    abs (abs (viewT1.sample (1 - 1) 1 - viewT1.sample (1 + 1) 1) -
      abs (viewT1.sample 1 (1 - 1) - viewT1.sample 1 (1 + 1))) ≤ edgeEps viewT1.params viewT1.depth := by
  decide

theorem witness_VngAlwaysHasValidDirection : viewT1.params.ok = true := by decide

/-- A 3x3 mosaic whose last row and column differ in two views. -/
def viewOdd (v : Sample) : View := { viewT1 with width := 3, height := 3, inp := [(0, 9), (8, v)] }

theorem witness_DownsampleIgnoresOddEdge :
    viewOdd 5 = { viewOdd 6 with inp := (viewOdd 5).inp } ∧ 0 < (viewOdd 6).width / 2 ∧
      0 < (viewOdd 6).height / 2 ∧ (viewOdd 6).cell 8 ≠ (viewOdd 5).cell 8 ∧
      ∀ x < 2 * ((viewOdd 6).width / 2), ∀ y < 2 * ((viewOdd 6).height / 2),
        (viewOdd 6).cell (y * (viewOdd 6).width + x) = (viewOdd 5).cell (y * (viewOdd 6).width + x) := by
  decide

/-- Two 12x12 mosaics that differ at the far corner only. -/
def viewFar (v : Sample) : View := { viewT1 with width := 12, height := 12, inp := [(0, 9), (143, v)] }

theorem viewFar_agree {a b : Int} (ha : a ≤ 10) : (viewFar 5).sample a b = (viewFar 6).sample a b := by
  have hi : ((viewFar 5).cy b * (viewFar 5).width + (viewFar 5).cx a).toNat ≠ 143 := by
    simp only [View.cx, View.cy, viewFar]
    omega
  have hz : ∀ (v : Sample) (i : Nat), i ≠ 143 →
      (viewFar v).cell i = if i = 0 then 9 else 0 := by
    intro v i h
    by_cases h0 : i = 0
    · subst h0; rfl
    · simp [View.cell, viewFar, Memory.read_cons, h0, Ne.symm h, Ne.symm h0]
  unfold View.sample
  rw [hz _ _ hi]
  exact (hz _ _ hi).symm

theorem witness_VngReadsFiveByFiveWindow :
    viewFar 6 = { viewFar 5 with inp := (viewFar 6).inp } ∧ (viewFar 5).cell 143 ≠ (viewFar 6).cell 143 ∧
      ∀ a b : Int, abs (a - 3) ≤ 2 → abs (b - 3) ≤ 2 → (viewFar 5).sample a b = (viewFar 6).sample a b :=
  ⟨rfl, by decide, fun _ _ ha _ => viewFar_agree (by have := abs_le.1 ha; omega)⟩

theorem witness_AhdReadsNineByNineWindow :
    viewFar 6 = { viewFar 5 with inp := (viewFar 6).inp } ∧ 3 < (viewFar 5).width ∧ 3 < (viewFar 5).height ∧
      ∀ a b : Int, abs (a - (3 : Nat)) ≤ 4 → abs (b - (3 : Nat)) ≤ 4 →
        (viewFar 5).sample a b = (viewFar 6).sample a b :=
  ⟨rfl, by decide, by decide, fun _ _ ha _ => viewFar_agree (by have := abs_le.1 ha; omega)⟩

/-- Two states that agree on the mosaic and the dimensions and differ in OUT and above `N_in`. -/
theorem witness_RunIsDeterminedByMosaicAndCommand :
    let s := running (.vng8 .rggb)
    let u := { running (.vng8 .rggb) with out := [(0, 77)], inp := mosaicMin ++ [(9, 5)] }
    RunReady (Instr.geometry (.vng8 .rggb)) (Instr.depth (.vng8 .rggb)) s ∧
      RunReady (Instr.geometry (.vng8 .rggb)) (Instr.depth (.vng8 .rggb)) u ∧ s ≠ u ∧
      s.params = u.params ∧ s.cmd.width = u.cmd.width ∧ s.cmd.height = u.cmd.height ∧
      ∀ a < nIn s.cmd, s.inp.read a = u.inp.read a :=
  ⟨ready_running _,
    ⟨⟨by decide, by decide, by decide, by decide, by decide, by decide, by decide⟩,
      by unfold DepthFits; decide, by decide, by decide⟩, by decide, rfl, rfl, rfl, by decide⟩

theorem witness_RunStepIsAlwaysEnabled :
    (running (.vng8 .rggb)).Inv ∧ (running (.vng8 .rggb)).status = statusBusy ∧
      (running (.vng8 .rggb)).moves.head? = some .engine :=
  ⟨inv_running, rfl, rfl⟩

/-- The run step of a state in flight answers a next state. -/
theorem step_running (i : Instr) : ∃ t, step (running i) = .next t ∧ t.status = statusDone := by
  have hd : decode (running i).cmd.ctrl = .ok i := by
    cases i <;> rename_i p <;> cases p <;> rfl
  have hstep : step (running i) = exec i ((running i).setMoves []) := by
    rw [step_cons (m := .engine) (rest := []) rfl]
    exact engineTurn_of_decode rfl hd
  have hr : RunReady i.geometry i.depth ((running i).setMoves []) :=
    let h := ready_running i
    ⟨⟨h.paramsOk, h.widthOk, h.heightOk, h.inFits, h.outFits, h.inpWf, h.outWf⟩, h.depthOk, h.inClean,
      h.outClean⟩
  rw [hstep, exec_of_ready hr]
  exact ⟨_, rfl, rfl⟩

theorem witness_EveryStepKeepsTheInvariant :
    ∃ s t : State, s.Inv ∧ step s = .next t ∧ s ≠ t :=
  let ⟨t, ht, hs⟩ := step_running (.vng8 .rggb)
  ⟨_, t, inv_running, ht, fun h => absurd (h ▸ hs) (by decide)⟩

theorem witness_StepRunsTheDecodedCommand :
    (running (.ahd16 .bggr)).status = statusBusy ∧
      decode (running (.ahd16 .bggr)).cmd.ctrl = .ok (.ahd16 .bggr) ∧
      (running (.ahd16 .bggr)).moves = .engine :: [] ∧ ((running (.ahd16 .bggr)).setMoves []).moves = [] ∧
      ((running (.ahd16 .bggr)).setMoves [.wait]).moves = .wait :: [] :=
  ⟨rfl, rfl, rfl, rfl, rfl⟩

theorem witness_RunLeavesEverythingElse :
    ∃ (i : Instr) (s t : State), Memory.wf s.out ∧ exec i s = .next t :=
  ⟨.vng8 .rggb, running (.vng8 .rggb), _, by decide, exec_of_ready (ready_running (.vng8 .rggb))⟩

theorem witness_RunWithSpoiltInputGivesAnyValues :
    RunFits (Instr.geometry (.vng8 .rggb)) { running (.vng8 .rggb) with inConflict := true } :=
  let h := (ready_running (.vng8 .rggb)).toRunFits
  ⟨h.1, h.2, h.3, h.4, h.5, h.6, h.7⟩

theorem witness_RunWithSpoiltOutputFreesThoseCells :
    let s := { running (.vng8 .rggb) with outConflicts := [1] }
    RunFits (Instr.geometry (.vng8 .rggb)) s ∧ DepthFits (Instr.depth (.vng8 .rggb)) s ∧
      s.inConflict = false ∧ outIndex 2 0 0 .g ∈ s.outConflicts ∧ outIndex 2 0 0 .r ∉ s.outConflicts :=
  let h := (ready_running (.vng8 .rggb)).toRunFits
  ⟨⟨h.1, h.2, h.3, h.4, h.5, h.6, h.7⟩, (ready_running (.vng8 .rggb)).depthOk, rfl, by decide, by decide⟩

theorem witness_IdleEngineDoesNothing : busy State.reset = false ∧ State.reset.moves = [] := by decide

theorem witness_OnlyTheRunStepSetsDone :
    ∃ s t : State, step s = .next t ∧ s.status ≠ statusDone ∧ t.status = statusDone :=
  let ⟨t, ht, hs⟩ := step_running (.vng8 .rggb)
  ⟨_, t, ht, by decide, hs⟩

theorem witness_OnlyStartAndResetChangeCommand :
    ∃ s t : State, step s = .next t ∧ t.cmd ≠ s.cmd :=
  ⟨prepared [.wr 3 1], _, rfl, by decide⟩

theorem witness_OnlyHostWritesChangeInput :
    ∃ s t : State, Memory.wf s.inp ∧ step s = .next t ∧ t.inp.read 0 ≠ s.inp.read 0 :=
  ⟨prepared [.wrIn 0 9], _, by decide, rfl, by decide⟩

theorem witness_NoStepChangesParameters : ∃ s t : State, step s = .next t :=
  ⟨prepared [.wr 0 9], _, rfl⟩

theorem witness_WaitEndsAfterTheRun :
    ((running (.vng8 .rggb)).setMoves [.wait]).Inv ∧
      ((running (.vng8 .rggb)).setMoves [.wait]).status = statusBusy ∧
      ((running (.vng8 .rggb)).setMoves [.wait]).moves = .wait :: [] ∧
      { prepared [.wait] with status := 0b10#2 }.status = statusDone ∧
      { prepared [.wait] with status := 0b10#2 }.moves = .wait :: [] ∧
      (prepared [.wait]).status = statusIdle ∧ (prepared [.wait]).moves = .wait :: [] :=
  ⟨inv_running.setMoves _, rfl, rfl, rfl, rfl, rfl, rfl⟩

/-- An accepted START; the five refusals are the tests test_start_unwritten to test_start_depth. -/
theorem witness_StartChecksThenLatches :
    busy (prepared [.wr 3 1]) = false ∧ (prepared [.wr 3 1]).moves = .wr 3 1 :: [] ∧
      Memory.wf (prepared [.wr 3 1]).inp ∧ startRefusal (prepared [.wr 3 1]) = none := by decide

theorem witness_StartStrobe :
    (prepared [.wr 3 0]).moves = .wr 3 0 :: [] ∧ (prepared [.wr 3 1]).moves = .wr 3 1 :: [] ∧
      busy (prepared [.wr 3 1]) = false ∧ busy { prepared [.wr 3 1] with status := 0b01#2 } = true := by
  decide

theorem witness_SampleCountsOfCommand :
    ctrlMethod 0x07#8 ≠ 4#3 ∧ ctrlMethod 0x04#8 = 4#3 := by decide

/-- Registers at their least and greatest values. -/
theorem witness_CommandRegisterWritesStore :
    (prepared [.wr 0 0xFFFFFFFF]).moves = .wr 0 0xFFFFFFFF :: [] ∧
      0xFFFFFFFF < 2 ^ (prepared []).params.dimBits ∧ (prepared [.wr 1 0]).moves = .wr 1 0 :: [] ∧
      0 < 2 ^ (prepared []).params.dimBits ∧ (prepared [.wr 2 255]).moves = .wr 2 255 :: [] := by decide

theorem witness_RegisterReadReturnsLastWrite :
    (prepared [.wr 2 255, .rd 2]).moves = .wr 2 255 :: .rd 2 :: [] ∧
      (prepared [.wr 1 9, .rd 1]).moves = .wr 1 9 :: .rd 1 :: [] ∧ 9 < 2 ^ (prepared []).params.dimBits := by
  decide

theorem witness_UnwrittenRegistersAreRefused :
    State.reset.widthWritten = false ∧ State.reset.heightWritten = false ∧
      State.reset.ctrlWritten = false ∧ busy State.reset = false ∧
      (State.reset.setMoves [.rd 0]).moves = .rd 0 :: [] ∧
      (∃ t, step (State.reset.setMoves [.wr 0 4]) = .next t) ∧
      (∃ t, step (State.reset.setMoves [.wr 1 4]) = .next t) ∧
      ∃ t, step (State.reset.setMoves [.wr 2 4]) = .next t :=
  ⟨rfl, rfl, rfl, rfl, rfl, ⟨_, rfl⟩, ⟨_, rfl⟩, ⟨_, rfl⟩⟩

theorem witness_StatusReadHasNoSideEffect : (prepared [.rd 4]).moves = .rd 4 :: [] := rfl

/-- The least refused and the greatest accepted values. -/
theorem witness_RegisterNumbersAndWidths :
    (prepared [.wr 4 4]).moves = .wr 4 4 :: [] ∧ (prepared [.wr 4 3]).moves = .wr 4 3 :: [] ∧
      (prepared [.wr 3 2]).moves = .wr 3 2 :: [] ∧ (prepared [.wr 2 256]).moves = .wr 2 256 :: [] ∧
      2 ^ (prepared []).params.dimBits ≤ 0x100000000 ∧ (prepared [.wr 5 0]).moves = .wr 5 0 :: [] ∧
      (prepared [.rd 3]).moves = .rd 3 :: [] ∧ (prepared [.rd 5]).moves = .rd 5 :: [] := by decide

theorem witness_ResetClearsTheEngine :
    (prepared [.reset]).moves = .reset :: [] ∧ Memory.wf (prepared [.reset]).out ∧
      busy (prepared [.reset]) = false ∧
      ((running (.vng8 .rggb)).setMoves [.reset]).moves = .reset :: [] ∧
      busy ((running (.vng8 .rggb)).setMoves [.reset]) = true := by decide

theorem witness_RegisterWritesDoNotReachTheRun :
    ∃ t, busy ((running (.vng8 .rggb)).setMoves [.wr 2 7]) = true ∧
      step ((running (.vng8 .rggb)).setMoves [.wr 2 7]) = .next t :=
  ⟨_, by decide, rfl⟩

theorem witness_AccessBeyondASpaceIsRefused :
    (prepared []).params.inLen ≤ 16 ∧ (prepared [.wrIn 16 0]).moves = .wrIn 16 0 :: [] ∧
      (prepared [.rdIn 16]).moves = .rdIn 16 :: [] ∧ (prepared []).params.outLen ≤ 48 ∧
      (prepared [.wrOut 48 0]).moves = .wrOut 48 0 :: [] ∧ (prepared [.rdOut 48]).moves = .rdOut 48 :: [] := by
  decide

/-- A write inside the windows of two runs, and one at `N_in` of the only one. -/
theorem witness_InputCellsReadBack :
    (runningUnread [.wrIn 15 9, .rdIn 0]).moves = .wrIn 15 9 :: .rdIn 0 :: [] ∧
      Memory.wf (runningUnread []).inp ∧ 15 < (runningUnread []).params.inLen ∧
      0 < (runningUnread []).params.inLen ∧
      ∀ k ∈ ((running (.vng8 .rggb)).setMoves [.wrIn 4 9, .rdIn 4]).windows, nIn k ≤ 4 := by
  decide

/-- With no window open, and at `N_out` of an open one. -/
theorem witness_OutputCellsReadBack :
    (prepared [.wrOut 47 9, .rdOut 0]).moves = .wrOut 47 9 :: .rdOut 0 :: [] ∧
      Memory.wf (prepared []).out ∧ (∀ k ∈ (prepared []).windows, nOut k ≤ 47 ∧ nOut k ≤ 0) ∧
      (∀ k ∈ (running (.vng8 .rggb)).windows, nOut k ≤ 12 ∧ nOut k ≤ 12) ∧
      (running (.vng8 .rggb)).windows ≠ [] ∧ 47 < (prepared []).params.outLen ∧
      0 < (prepared []).params.outLen := by decide

/-- The last cell of the run in flight, the first above it, and one of the earlier run only. -/
theorem witness_OutputReadsInTheWindowAreAnyValue :
    let s := (running (.vng8 .rggb)).setMoves [.rdOut 11]
    s.moves = .rdOut 11 :: [] ∧ 11 < s.params.outLen ∧ (∃ k ∈ s.windows, 11 < nOut k) ∧
      (∀ k ∈ s.windows, nOut k ≤ 12) ∧ 12 < s.params.outLen ∧
      ∃ k ∈ (runningUnread [.rdOut 47]).windows, 47 < nOut k := by decide

theorem witness_InputWriteDuringRunSpoilsOutput :
    let s := (running (.vng8 .rggb)).setMoves [.wrIn 3 9, .engine]
    let e := (runningUnread []).setMoves [.wrIn 15 9]
    s.Inv ∧ s.status = statusBusy ∧ s.moves = .wrIn 3 9 :: .engine :: [] ∧ 3 < nIn s.cmd ∧
      e.Inv ∧ e.moves = .wrIn 15 9 :: [] ∧ ∃ k ∈ e.unread, 15 < nIn k :=
  ⟨inv_running.setMoves _, rfl, rfl, by decide, inv_runningUnread.setMoves _, rfl, by decide⟩

theorem witness_OutputWriteDuringRunSpoilsThatCell :
    let s := (running (.vng8 .rggb)).setMoves [.wrOut 11 9, .engine]
    let e := (runningUnread []).setMoves [.wrOut 12 9]
    s.Inv ∧ s.status = statusBusy ∧ s.moves = .wrOut 11 9 :: .engine :: [] ∧ 11 < nOut s.cmd ∧
      e.Inv ∧ e.moves = .wrOut 12 9 :: [] ∧ (∃ k ∈ e.unread, 12 < nOut k) ∧ nOut e.cmd ≤ 12 :=
  ⟨inv_running.setMoves _, rfl, rfl, by decide, inv_runningUnread.setMoves _, rfl, by decide,
    by decide⟩

end Sys2Proof.Tests
end

section
/-! What no turn of either agent changes: the instance's parameters (00_scope.md R10). -/

namespace Sys2Proof.Machine

variable {s t : State}

@[simp] theorem State.observe_params (s : State) (number : Nat) : (s.observe number).params = s.params := by
  rcases s.observe_cases number with h | ⟨-, -, h⟩ <;> simp [h]

@[simp] theorem resetEvent_params (s : State) : (resetEvent s).params = s.params := by
  rcases resetEvent_cases s with ⟨-, h⟩ | ⟨-, h⟩ <;> simp [h]

theorem exec_params {i : Instr} (h : exec i s = .next t) : t.params = s.params := by
  rw [exec_eq_runMethod] at h
  obtain ⟨-, rfl⟩ := runMethod_next h
  simp

theorem engineTurn_params (h : engineTurn s = .next t) : t.params = s.params := by
  rcases engineTurn_next h with ⟨-, i, -, hi⟩ | ⟨-, rfl⟩
  · exact exec_params hi
  · rfl

theorem writeRegister_params {n v : Nat} (h : writeRegister s n v = .next t) : t.params = s.params := by
  rcases writeRegister_next h with ⟨-, -, rfl⟩ | ⟨-, -, rfl⟩ | ⟨-, -, rfl⟩ | ⟨-, -, rfl⟩ |
    ⟨-, -, -, -, rfl⟩ | ⟨-, -, rfl⟩ <;> simp

theorem readRegister_params {n : Nat} (h : readRegister s n = .next t) : t.params = s.params := by
  obtain ⟨v, -, rfl⟩ := readRegister_next h
  simp

theorem writeIn_params {i : Nat} {v : Sample} (h : writeIn s i v = .next t) : t.params = s.params := by
  obtain ⟨-, ⟨-, -, rfl⟩ | ⟨-, rfl⟩⟩ := writeIn_next h <;> simp

theorem readIn_params {i : Nat} (h : readIn s i = .next t) : t.params = s.params := by
  obtain ⟨-, rfl⟩ := readIn_next h
  simp

theorem writeOut_params {i : Nat} {v : Sample} (h : writeOut s i v = .next t) : t.params = s.params := by
  obtain ⟨-, ⟨-, -, rfl⟩ | ⟨-, -, rfl⟩ | ⟨-, -, rfl⟩⟩ := writeOut_next h <;> simp

theorem readOut_params {i : Nat} (h : readOut s i = .next t) : t.params = s.params := by
  obtain ⟨-, ⟨-, rfl⟩ | ⟨-, rfl⟩⟩ := readOut_next h <;> simp

theorem waitTurn_params {rest : List Move} (h : waitTurn s rest = .next t) : t.params = s.params := by
  rcases waitTurn_next h with ⟨-, rfl⟩ | ⟨-, he⟩
  · simp
  · exact engineTurn_params he

/-- Each kind of turn keeps the parameters: the accesses of HOST, the polling loop, the reset event and
ENGINE's turn. -/
theorem moveTurn_params {m : Move} (h : moveTurn m s = .next t) : t.params = s.params := by
  cases m with
  | wr n v => exact writeRegister_params h
  | rd n => exact readRegister_params h
  | wrIn i v => exact writeIn_params h
  | rdIn i => exact readIn_params h
  | wrOut i v => exact writeOut_params h
  | rdOut i => exact readOut_params h
  | wait => exact waitTurn_params (s := s.setMoves (.wait :: s.moves)) h
  | reset =>
    cases h
    simp
  | engine => exact engineTurn_params h

theorem step_params (h : step s = .next t) : t.params = s.params := by
  cases hm : s.moves with
  | nil => exact engineTurn_params (step_nil hm ▸ h)
  | cons m rest => exact moveTurn_params (s := s.setMoves rest) (step_cons hm ▸ h)

end Sys2Proof.Machine
end

/-- Settles O43: the turn at the head of the list, or ENGINE's, keeps the parameters. -/
theorem noStepChangesParameters : Obligations.NoStepChangesParameters :=
  fun _ _ h => Sys2Proof.Machine.step_params h

section
/-! Every method value lies in `[0, MAX]` (00_scope.md R17). A method either copies a sample, clamps, or takes
the truncated mean of a nonempty list of values in range. -/

namespace Sys2Proof.Machine

/-- The truncated mean of a nonempty list stays between the bounds of its entries. -/
theorem mean_mem_Icc {l : List Int} {M : Int} (hne : l ≠ []) (h : ∀ a ∈ l, a ∈ Set.Icc 0 M) :
    l.sum / (l.length : Int) ∈ Set.Icc 0 M := by
  have hlen : (0 : Int) < l.length := by exact_mod_cast List.length_pos_iff.2 hne
  have hsum : l.sum ≤ M * l.length := by
    simpa [mul_comm] using List.sum_le_card_nsmul l M fun a ha => (h a ha).2
  exact ⟨Int.ediv_nonneg (List.sum_nonneg fun a ha => (h a ha).1) hlen.le,
    Int.ediv_le_of_le_mul hlen hsum⟩

/-! ### Nonempty site lists -/

/-- Every tile has a site of every colour (44_downsample.md R140). -/
theorem tileSites_ne_nil (p : Pattern) (c : Chan) : tileSites p c ≠ [] := by
  cases p <;> cases c <;> decide

/-- A tile site lies in the tile and has its colour there (40_pixel_addressing.md R87). -/
theorem tileSites_spec {p : Pattern} {c : Chan} {o : Nat × Nat} (h : o ∈ tileSites p c) :
    o.1 < 2 ∧ o.2 < 2 ∧ color p o.1 o.2 = c := by
  obtain ⟨hmem, hc⟩ := List.mem_filter.1 h
  have hc : tile p (o.2 = 1) (o.1 = 1) = c := of_decide_eq_true hc
  simp only [List.mem_cons, List.not_mem_nil, or_false] at hmem
  rcases hmem with rfl | rfl | rfl | rfl <;> exact ⟨by decide, by decide, hc⟩

theorem View.mem_candidates {v : View} {c : Chan} {q : Nat × Nat} :
    q ∈ v.candidates c ↔ q.1 < v.width ∧ q.2 < v.height ∧ color v.pattern q.1 q.2 = c := by
  obtain ⟨x, y⟩ := q
  simp only [View.candidates, List.mem_filter, List.mem_flatMap, List.mem_map, List.mem_range,
    decide_eq_true_eq]
  constructor
  · rintro ⟨⟨b, hb, a, ha, ⟨⟩⟩, hc⟩
    exact ⟨ha, hb, hc⟩
  · rintro ⟨hx, hy, hc⟩
    exact ⟨⟨y, hy, x, hx, rfl⟩, hc⟩

/-- A mosaic of at least 2 by 2 has a candidate of every colour (42_nearest_simple_bilinear.md R110). -/
theorem View.candidates_ne_nil {v : View} (hw : 2 ≤ v.width) (hh : 2 ≤ v.height) (c : Chan) :
    v.candidates c ≠ [] := by
  obtain ⟨o, ho⟩ := List.exists_mem_of_ne_nil _ (tileSites_ne_nil v.pattern c)
  obtain ⟨hx, hy, hc⟩ := tileSites_spec ho
  exact List.ne_nil_of_mem (View.mem_candidates.2 ⟨by omega, by omega, hc⟩)

theorem neighbours_ne_nil (p : Pattern) (x y : Int) (c : Chan) : neighbours p x y c ≠ [] := by
  unfold neighbours axialOffsets diagonalOffsets
  repeat' split
  all_goals simp

/-! ### NEAREST's choice -/

/-- The search for the nearest returns one of the positions it is given. -/
theorem exists_nearestOf {l : List (Nat × Nat)} (h : l ≠ []) (x y : Int) :
    ∃ q ∈ l, nearestOf x y l = some q := by
  obtain ⟨q, t, rfl⟩ := List.exists_cons_of_ne_nil h
  refine ⟨_, ?_, rfl⟩
  clear h
  induction t generalizing q with
  | nil => exact List.mem_singleton_self q
  | cons r t ih =>
    rw [List.foldl_cons]
    split
    · exact List.mem_cons_of_mem q (ih r)
    · exact List.cons_subset_cons q (List.subset_cons_self r t) (ih q)

/-- NEAREST copies the cell of a candidate (42_nearest_simple_bilinear.md R110). -/
theorem exists_nearest_eq_cell {v : View} (hw : 2 ≤ v.width) (hh : 2 ≤ v.height) (c : Chan) (x y : Int) :
    ∃ q ∈ v.candidates c, nearest v c x y = v.cell (q.2 * v.width + q.1) := by
  obtain ⟨q, hq, hn⟩ := exists_nearestOf (View.candidates_ne_nil hw hh c) x y
  exact ⟨q, hq, by simp [nearest, hn]⟩

/-! ### VNG's directions -/

theorem leastOf_mem {l : List Int} (h : l ≠ []) : leastOf l ∈ l := by
  obtain ⟨a, t, rfl⟩ := List.exists_cons_of_ne_nil h
  exact List.min?_mem (by rfl)

theorem le_greatestOf {l : List Int} {a : Int} (h : a ∈ l) : a ≤ greatestOf l := by
  cases l with
  | nil => simp at h
  | cons b t => exact (List.max?_le_iff (by rfl)).1 le_rfl a h

theorem View.grad_nonneg (v : View) (x y : Int) (d : Int × Int) : 0 ≤ v.grad x y d := by
  unfold View.grad absDiff
  omega

theorem View.grad_le_gradMax (v : View) (x y : Int) {d : Int × Int} (h : d ∈ directions) :
    v.grad x y d ≤ v.gradMax x y :=
  le_greatestOf (List.mem_map_of_mem h)

/-- Some direction has the least gradient (45_vng.md R152). -/
theorem View.exists_grad_eq_gradMin (v : View) (x y : Int) :
    ∃ d ∈ directions, v.grad x y d = v.gradMin x y :=
  List.mem_map.1 (leastOf_mem (by simp [directions]))

/-- The constraints on VNG's threshold (00_scope.md R9). -/
theorem Params.ok_vng {p : Params} (h : p.ok = true) : p.vngDen ≤ p.vngK1Num := by
  simp only [Params.ok, Bool.and_eq_true, decide_eq_true_eq] at h
  exact h.2

/-- A direction of least gradient is valid (45_vng.md R155). -/
theorem View.validDirections_ne_nil {v : View} (h : v.params.ok = true) (x y : Int) :
    v.validDirections x y ≠ [] := by
  obtain ⟨d, hd, hmin⟩ := v.exists_grad_eq_gradMin x y
  have h0 := v.grad_nonneg x y d
  have hmax := v.grad_le_gradMax x y hd
  rw [hmin] at h0 hmax
  have hbase : (v.params.vngDen : Int) * v.gradMin x y ≤ v.params.vngK1Num * v.gradMin x y :=
    mul_le_mul_of_nonneg_right (by exact_mod_cast Params.ok_vng h) h0
  have hspread : 0 ≤ (v.params.vngK2Num : Int) * (v.gradMax x y - v.gradMin x y) :=
    mul_nonneg (by omega) (by omega)
  refine List.ne_nil_of_mem (List.mem_filter.2 ⟨hd, decide_eq_true ?_⟩)
  rw [hmin]
  omega

/-! ### The methods in a legal view -/

section Legal
variable {v : View} (h : v.Legal) (c : Chan) (x y : Int)
include h

/-- The cell of an in-range position is in range. -/
theorem View.Legal.cell_mem {i j : Nat} (hi : i < v.width) (hj : j < v.height) :
    v.cell (j * v.width + i) ∈ Set.Icc 0 (maxSample v.depth) := by
  refine ⟨v.cell_nonneg _, h.samplesOk _ ?_⟩
  calc j * v.width + i < (j + 1) * v.width := by rw [Nat.succ_mul]; omega
    _ ≤ v.height * v.width := Nat.mul_le_mul_right _ hj
    _ = v.width * v.height := Nat.mul_comm _ _

theorem View.Legal.sample_mem : v.sample x y ∈ Set.Icc 0 (maxSample v.depth) :=
  ⟨v.sample_nonneg x y, h.sample_le x y⟩

theorem View.Legal.bil_mem : v.bil x y c ∈ Set.Icc 0 (maxSample v.depth) := by
  have hmean := mean_mem_Icc (l := (neighbours v.pattern x y c).map fun o => v.sample (x + o.1) (y + o.2))
    (by simpa using neighbours_ne_nil v.pattern x y c)
    (List.forall_mem_map.2 fun o _ => h.sample_mem _ _)
  rwa [List.length_map] at hmean

theorem View.Legal.nearest_mem : nearest v c x y ∈ Set.Icc 0 (maxSample v.depth) := by
  obtain ⟨q, hq, hn⟩ := exists_nearest_eq_cell h.widthOk h.heightOk c x y
  obtain ⟨hx, hy, -⟩ := View.mem_candidates.1 hq
  exact hn ▸ h.cell_mem hx hy

theorem View.Legal.bilinear_mem : bilinear v c x y ∈ Set.Icc 0 (maxSample v.depth) := by
  unfold bilinear
  split
  · exact h.sample_mem x y
  · exact h.bil_mem c x y

theorem View.Legal.simple_mem : simple v c x y ∈ Set.Icc 0 (maxSample v.depth) :=
  h.bilinear_mem c x y

theorem View.Legal.hqlinear_mem : hqlinear v c x y ∈ Set.Icc 0 (maxSample v.depth) := by
  unfold hqlinear
  split
  · exact h.sample_mem x y
  · exact clamp_mem _ _

theorem View.Legal.downsample_mem {i j : Nat} (hi : i < v.width / 2) (hj : j < v.height / 2) :
    downsample v c i j ∈ Set.Icc 0 (maxSample v.depth) := by
  have hcell : ∀ o ∈ tileSites v.pattern c,
      v.cell ((2 * (j : Int) + o.2) * v.width + (2 * i + o.1)).toNat ∈ Set.Icc 0 (maxSample v.depth) := by
    intro o ho
    obtain ⟨hx, hy, -⟩ := tileSites_spec ho
    have hindex : ((2 * (j : Int) + o.2) * v.width + (2 * i + o.1)).toNat =
        (2 * j + o.2) * v.width + (2 * i + o.1) := by
      exact_mod_cast Int.toNat_natCast _
    rw [hindex]
    exact h.cell_mem (by omega) (by omega)
  have hmean := mean_mem_Icc (by simpa using tileSites_ne_nil v.pattern c) (List.forall_mem_map.2 hcell)
  rwa [List.length_map] at hmean

/-- The green of EDGESENSE is a mean of two or of four samples (43_hqlinear_edgesense.md R128). -/
theorem View.Legal.edgeGreen_mem : v.edgeGreen x y ∈ Set.Icc 0 (maxSample v.depth) := by
  obtain ⟨hW, hW'⟩ := h.sample_mem (x - 1) y
  obtain ⟨hE, hE'⟩ := h.sample_mem (x + 1) y
  obtain ⟨hN, hN'⟩ := h.sample_mem x (y - 1)
  obtain ⟨hS, hS'⟩ := h.sample_mem x (y + 1)
  unfold View.edgeGreen
  dsimp only
  split
  · constructor <;> omega
  · split <;> constructor <;> omega

theorem View.Legal.edgesense_mem : edgesense v c x y ∈ Set.Icc 0 (maxSample v.depth) := by
  unfold edgesense
  split
  · exact h.sample_mem x y
  · split
    · exact h.edgeGreen_mem x y
    · exact h.bil_mem c x y

theorem View.Legal.vng_mem : vng v c x y ∈ Set.Icc 0 (maxSample v.depth) := by
  unfold vng
  split
  · exact h.sample_mem x y
  · have hmean := mean_mem_Icc (l := (v.validDirections x y).map (v.estimate c x y))
      (by simpa using View.validDirections_ne_nil h.paramsOk x y)
      (List.forall_mem_map.2 fun d _ => h.bil_mem c _ _)
    rwa [List.length_map] at hmean

theorem View.Legal.greenPlane_mem (k : Axis) : v.greenPlane k x y ∈ Set.Icc 0 (maxSample v.depth) := by
  unfold View.greenPlane
  split
  · exact h.sample_mem x y
  · cases k <;> exact clamp_mem _ _

theorem View.Legal.candColour_mem (k : Axis) : v.candColour k c x y ∈ Set.Icc 0 (maxSample v.depth) := by
  unfold View.candColour
  split
  · exact h.sample_mem x y
  · split
    · split <;> exact clamp_mem _ _
    · exact clamp_mem _ _

theorem View.Legal.candidate_mem (k : Axis) : v.candidate k c x y ∈ Set.Icc 0 (maxSample v.depth) := by
  cases c with
  | g => exact h.greenPlane_mem x y k
  | r => exact h.candColour_mem .r x y k
  | b => exact h.candColour_mem .b x y k

theorem View.Legal.ahd_mem : ahd v c x y ∈ Set.Icc 0 (maxSample v.depth) := by
  unfold ahd
  split <;> exact h.candidate_mem c x y _

end Legal

end Sys2Proof.Machine
end

/-- Settles O20, method by method; DOWNSAMPLE alone needs the output position to be in range. -/
theorem everyMethodStaysInRange : Obligations.EveryMethodStaysInRange := by
  intro m v c x y h hx hy
  cases m with
  | nearest => exact h.nearest_mem c x y
  | simple => exact h.simple_mem c x y
  | bilinear => exact h.bilinear_mem c x y
  | hqlinear => exact h.hqlinear_mem c x y
  | downsample => exact h.downsample_mem c hx hy
  | edgesense => exact h.edgesense_mem c x y
  | vng => exact h.vng_mem c x y
  | ahd => exact h.ahd_mem c x y

section
/-! The invariant through the remaining updates of State, and through each turn of the two agents. -/

namespace Sys2Proof.Machine

variable {s t : State}

/-! ### The updates -/

theorem State.Inv.setWidth (h : s.Inv) {v : Nat} (hv : v < 2 ^ s.params.dimBits) : (s.setWidth v).Inv :=
  { h with widthFits := hv }

theorem State.Inv.setHeight (h : s.Inv) {v : Nat} (hv : v < 2 ^ s.params.dimBits) :
    (s.setHeight v).Inv :=
  { h with heightFits := hv }

theorem State.Inv.setCtrl (h : s.Inv) (v : BitVec 8) : (s.setCtrl v).Inv :=
  { h with }

/-- Of the open windows, HOST's read of DONE = 1 leaves at most that of the run in flight. -/
theorem State.windows_closeWindow_subset (s : State) : s.closeWindow.windows ⊆ s.windows := fun k hk => by
  rcases State.mem_windows.1 hk with ⟨hb, rfl⟩ | hk
  · exact State.mem_windows.2 (.inl ⟨hb, rfl⟩)
  · exact absurd hk List.not_mem_nil

theorem State.Inv.closeWindow (h : s.Inv) : s.closeWindow.Inv :=
  { h with windowsLegal := fun k hk => h.windowsLegal k (s.windows_closeWindow_subset hk) }

theorem State.Inv.observe (h : s.Inv) (n : Nat) : (s.observe n).Inv := by
  rcases s.observe_cases n with ho | ⟨-, -, ho⟩ <;> rw [ho]
  · exact h
  · exact h.closeWindow

/-- With no run in flight no OUT cell is listed as spoilt (20_memory.md R61). -/
theorem State.Inv.outConflicts_of_not_busy (h : s.Inv) (hb : busy s = false) : s.outConflicts = [] := by
  by_contra hc
  exact absurd (h.outConflictsBusy hc) (by simp [hb])

@[simp] theorem State.busy_latch (s : State) (k : Command) : busy (s.latch k) = true :=
  statusBusy_busy rfl

/-- An accepted START latches a command that passed every check (41_dispatcher.md R101). -/
theorem State.Inv.latch (h : s.Inv) (hb : busy s = false) (hr : startRefusal s = none) :
    (s.latch (liveCommand s)).Inv := by
  obtain ⟨-, -, -, hwf, hin, hout, hbyte⟩ := startRefusal_eq_none.1 hr
  have hwindows : ∀ k ∈ (s.latch (liveCommand s)).windows,
      k.wellFormed = true ∧ nIn k ≤ s.params.inLen ∧ nOut k ≤ s.params.outLen := by
    intro k hk
    rcases State.mem_windows.1 hk with ⟨-, rfl⟩ | hk
    · exact ⟨hwf, hin, hout⟩
    · exact h.windowsLegal k (State.mem_windows.2 (.inr hk))
  exact { h with
    statusLegal := (by decide : statusBusy ≠ 0b11#2)
    windowsLegal := hwindows
    depthOk := fun _ _ => hbyte
    inConflictBusy := fun _ => s.busy_latch _
    outConflictsBusy := fun _ => s.busy_latch _
    outConflictsWf := by simp [h.outConflicts_of_not_busy hb] }

/-- An OUT cell of the run in flight may be marked as spoilt (20_memory.md R61). -/
theorem State.Inv.markOutConflict (h : s.Inv) (hb : busy s = true) {i : Nat} (hi : i < nOut s.cmd) :
    (s.markOutConflict i).Inv := by
  obtain ⟨hrising, hbound⟩ := h.outConflictsWf
  refine { h with
    outConflictsBusy := fun _ => hb
    outConflictsWf := ⟨pairwise_insertRising hrising, fun j hj => ?_⟩ }
  rcases mem_insertRising.1 hj with rfl | hj
  · exact hi
  · exact hbound j hj

@[simp] theorem State.busy_complete (s : State) (m : Memory) (ctr : Nat) :
    busy (s.complete m ctr) = false :=
  (by decide : statusDone.getLsbD 0 = false)

/-- Completing a run closes no window: that of the run stays open (70_reset_and_hazards.md R217). -/
theorem State.windows_complete (hb : busy s = true) (m : Memory) (ctr : Nat) :
    (s.complete m ctr).windows = s.windows := by
  simp [State.windows, hb]

/-- A run in flight may complete with a canonical OUT within OUT_LEN. -/
theorem State.Inv.complete (h : s.Inv) (hb : busy s = true) {m : Memory} (hw : m.wf)
    (hm : ∀ c ∈ m, c.1 < s.params.outLen) (ctr : Nat) : (s.complete m ctr).Inv :=
  { h with
    statusLegal := (by decide : statusDone ≠ 0b11#2)
    outWf := hw
    outBound := hm
    windowsLegal := fun k hk => h.windowsLegal k (State.windows_complete hb m ctr ▸ hk)
    depthOk := fun hbusy => absurd hbusy (by simp)
    inConflictBusy := by simp
    outConflictsBusy := by simp
    outConflictsWf := by simp }

@[simp] theorem State.busy_clear (s : State) : busy s.clear = false :=
  (by decide : statusIdle.getLsbD 0 = false)

/-- The reset event closes no window (log 6). -/
theorem State.windows_clear (s : State) : s.clear.windows = s.windows := by
  simp [State.windows]

theorem State.Inv.clear (h : s.Inv) : s.clear.Inv :=
  { h with
    statusLegal := (by decide : statusIdle ≠ 0b11#2)
    widthFits := Nat.two_pow_pos _
    heightFits := Nat.two_pow_pos _
    windowsLegal := fun k hk => h.windowsLegal k (s.windows_clear ▸ hk)
    depthOk := fun hbusy => absurd hbusy (by simp)
    inConflictBusy := by simp
    outConflictsBusy := by simp
    outConflictsWf := by simp }

/-- One OUT cell may be written (20_memory.md R44). -/
theorem State.Inv.writeOut (h : s.Inv) {i : Nat} (hi : i < s.params.outLen) (v : Sample) :
    (s.setOut (s.out.write i v)).Inv :=
  h.setOut (Memory.wf_write h.outWf i v) fun c hc => by
    rcases Memory.mem_write hc with hc | ⟨rfl, -⟩
    · exact h.outBound c hc
    · exact hi

/-! ### The turns -/

theorem resetEvent_inv (h : s.Inv) : (resetEvent s).Inv := by
  rcases resetEvent_cases s with ⟨hb, hr⟩ | ⟨-, hr⟩ <;> rw [hr]
  · exact (h.freeOut (h.runLegal hb).2.2).clear
  · exact h.clear

theorem engineTurn_inv (h : s.Inv) (he : engineTurn s = .next t) : t.Inv := by
  rcases engineTurn_next he with ⟨hb, i, -, hi⟩ | ⟨-, rfl⟩
  · rw [exec_eq_runMethod] at hi
    obtain ⟨hr, rfl⟩ := runMethod_next hi
    obtain ⟨-, -, -, -, hout, -⟩ := runRefusal_eq_none.1 hr
    refine h.complete (statusBusy_busy hb) (wf_runOut h.outWf) (fun c hc => ?_) _
    rcases mem_runOut hc with hc | hc
    · exact h.outBound c hc
    · exact hc.trans_le hout
  · exact h

theorem writeRegister_inv {n v : Nat} (h : s.Inv) (hw : writeRegister s n v = .next t) : t.Inv := by
  rcases writeRegister_next hw with ⟨-, hv, rfl⟩ | ⟨-, hv, rfl⟩ | ⟨-, -, rfl⟩ | ⟨-, -, rfl⟩ |
    ⟨-, -, hb, hr, rfl⟩ | ⟨-, -, rfl⟩
  · exact h.setWidth hv
  · exact h.setHeight hv
  · exact h.setCtrl _
  · exact h
  · exact h.latch hb hr
  · exact h

theorem readRegister_inv {n : Nat} (h : s.Inv) (hr : readRegister s n = .next t) : t.Inv := by
  obtain ⟨v, -, rfl⟩ := readRegister_next hr
  exact (h.observe n).receive v

theorem writeIn_inv {i : Nat} {v : Sample} (h : s.Inv) (hw : writeIn s i v = .next t) : t.Inv := by
  obtain ⟨hi, ⟨hb, -, rfl⟩ | ⟨hc, rfl⟩⟩ := writeIn_next hw
  · exact (h.writeInp_markInConflict v hi hb).freeOut (h.spoiltBelow_le i)
  · exact (h.writeInp v hi hc).freeOut (h.spoiltBelow_le i)

theorem readIn_inv {i : Nat} (h : s.Inv) (hr : readIn s i = .next t) : t.Inv := by
  obtain ⟨-, rfl⟩ := readIn_next hr
  exact h.receive _

theorem writeOut_inv {i : Nat} {v : Sample} (h : s.Inv) (hw : writeOut s i v = .next t) : t.Inv := by
  obtain ⟨hi, ⟨hb, hn, rfl⟩ | ⟨-, -, rfl⟩ | ⟨-, -, rfl⟩⟩ := writeOut_next hw
  · exact h.markOutConflict hb hn
  · exact (h.writeOut hi _).drawFree 1
  · exact h.writeOut hi v

theorem readOut_inv {i : Nat} (h : s.Inv) (hr : readOut s i = .next t) : t.Inv := by
  obtain ⟨-, ⟨-, rfl⟩ | ⟨-, rfl⟩⟩ := readOut_next hr
  · exact (h.receive _).drawFree 1
  · exact h.receive _

theorem waitTurn_inv {rest : List Move} (h : s.Inv) (hw : waitTurn s rest = .next t) : t.Inv := by
  rcases waitTurn_next hw with ⟨-, rfl⟩ | ⟨-, he⟩
  · exact (h.setMoves rest).closeWindow.receive _
  · exact engineTurn_inv h he

theorem moveTurn_inv {m : Move} (h : s.Inv) (hm : moveTurn m s = .next t) : t.Inv := by
  cases m with
  | wr n v => exact writeRegister_inv h hm
  | rd n => exact readRegister_inv h hm
  | wrIn i v => exact writeIn_inv h hm
  | rdIn i => exact readIn_inv h hm
  | wrOut i v => exact writeOut_inv h hm
  | rdOut i => exact readOut_inv h hm
  | wait => exact waitTurn_inv (h.setMoves (.wait :: s.moves)) hm
  | reset =>
    cases hm
    exact resetEvent_inv h
  | engine => exact engineTurn_inv h hm

theorem step_inv (h : s.Inv) (hs : step s = .next t) : t.Inv := by
  cases hm : s.moves with
  | nil => exact engineTurn_inv h (step_nil hm ▸ hs)
  | cons m rest => exact moveTurn_inv (h.setMoves rest) (step_cons hm ▸ hs)

theorem State.inv_reset : State.reset.Inv where
  paramsOk := by decide
  statusLegal := by decide
  widthFits := Nat.two_pow_pos _
  heightFits := Nat.two_pow_pos _
  inpWf := Memory.wf_nil
  outWf := Memory.wf_nil
  inpBound := by decide
  outBound := by decide
  windowsLegal := by decide
  depthOk := by decide
  inConflictBusy := by decide
  outConflictsBusy := by decide
  outConflictsWf := by decide

end Sys2Proof.Machine
end

/-- Settles O33: every kind of turn keeps the invariant, and taking the turn off the list does too. -/
theorem everyStepKeepsTheInvariant : Obligations.EveryStepKeepsTheInvariant :=
  fun _ _ h hs => Sys2Proof.Machine.step_inv h hs

/-- Settles O34: no run, no window and empty spaces on a legal platform. -/
theorem resetMeetsTheInvariant : Obligations.ResetMeetsTheInvariant :=
  Sys2Proof.Machine.State.inv_reset

section
/-! What one turn can do to the control part of the engine: STATUS (10_state.md R27) and CMD_L (R25). -/

namespace Sys2Proof.Machine

variable {s t : State}

/-- CMD_L and STATUS are as before. Taking a turn off the list touches neither. -/
def SameControl (s t : State) : Prop := t.cmd = s.cmd ∧ t.status = s.status

theorem SameControl.refl (s : State) : SameControl s s := ⟨rfl, rfl⟩

theorem sameControl_readRegister {n : Nat} (h : readRegister s n = .next t) : SameControl s t := by
  obtain ⟨v, -, rfl⟩ := readRegister_next h
  rcases s.observe_cases n with ho | ⟨-, -, ho⟩ <;> rw [ho] <;> exact ⟨rfl, rfl⟩

theorem sameControl_writeIn {i : Nat} {v : Sample} (h : writeIn s i v = .next t) : SameControl s t := by
  obtain ⟨-, ⟨-, -, rfl⟩ | ⟨-, rfl⟩⟩ := writeIn_next h <;> exact ⟨rfl, rfl⟩

theorem sameControl_readIn {i : Nat} (h : readIn s i = .next t) : SameControl s t := by
  obtain ⟨-, rfl⟩ := readIn_next h
  exact ⟨rfl, rfl⟩

theorem sameControl_writeOut {i : Nat} {v : Sample} (h : writeOut s i v = .next t) :
    SameControl s t := by
  obtain ⟨-, ⟨-, -, rfl⟩ | ⟨-, -, rfl⟩ | ⟨-, -, rfl⟩⟩ := writeOut_next h <;> exact ⟨rfl, rfl⟩

theorem sameControl_readOut {i : Nat} (h : readOut s i = .next t) : SameControl s t := by
  obtain ⟨-, ⟨-, rfl⟩ | ⟨-, rfl⟩⟩ := readOut_next h <;> exact ⟨rfl, rfl⟩

/-- A register write touches CMD_L and STATUS only as a START (10_state.md R24, R25, R28). -/
theorem writeRegister_control {n v : Nat} (h : writeRegister s n v = .next t) :
    SameControl s t ∨ (n = 3 ∧ v = 1 ∧ t.status = statusBusy) := by
  rcases writeRegister_next h with ⟨-, -, rfl⟩ | ⟨-, -, rfl⟩ | ⟨-, -, rfl⟩ | ⟨-, -, rfl⟩ |
    ⟨hn, hv, -, -, rfl⟩ | ⟨-, -, rfl⟩
  case inr.inr.inr.inr.inl => exact .inr ⟨hn, hv, rfl⟩
  all_goals exact .inl ⟨rfl, rfl⟩

/-- The step from `s` to `t` completes the run in flight: STATUS goes from `0b01` to `0b10`
(41_dispatcher.md R102). -/
structure CompletesRun (s t : State) : Prop where
  wasBusy : s.status = statusBusy
  decodes : ∃ i, decode s.cmd.ctrl = .ok i
  cmd_eq : t.cmd = s.cmd
  isDone : t.status = statusDone

/-- ENGINE's turn completes a run or changes neither CMD_L nor STATUS. -/
theorem engineTurn_control (h : engineTurn s = .next t) : SameControl s t ∨ CompletesRun s t := by
  rcases engineTurn_next h with ⟨hb, i, hi, he⟩ | ⟨-, rfl⟩
  · rw [exec_eq_runMethod] at he
    obtain ⟨-, rfl⟩ := runMethod_next he
    exact .inr ⟨hb, ⟨i, hi⟩, rfl, rfl⟩
  · exact .inl (.refl t)

theorem waitTurn_control {rest : List Move} (h : waitTurn s rest = .next t) :
    SameControl s t ∨ CompletesRun s t := by
  rcases waitTurn_next h with ⟨-, rfl⟩ | ⟨-, he⟩
  · exact .inl ⟨rfl, rfl⟩
  · exact engineTurn_control he

/-- The turns in which ENGINE may run: no turn listed, its own, or HOST's polling loop (log 4). -/
def EngineHasTurn (s : State) : Prop :=
  s.moves = [] ∨ s.moves.head? = some .engine ∨ s.moves.head? = some .wait

/-- All a step can do to CMD_L and STATUS: nothing, or complete a run in a turn of ENGINE, or a START, or
the reset event. -/
theorem step_control (h : step s = .next t) :
    SameControl s t ∨ (EngineHasTurn s ∧ CompletesRun s t) ∨
      (s.moves.head? = some (.wr 3 1) ∧ t.status = statusBusy) ∨
      (s.moves.head? = some .reset ∧ t.status = statusIdle) := by
  cases hm : s.moves with
  | nil =>
    exact (engineTurn_control (step_nil hm ▸ h)).imp_right fun hc => .inl ⟨.inl hm, hc⟩
  | cons m rest =>
    rw [step_cons hm] at h
    have hhead : s.moves.head? = some m := by rw [hm]; rfl
    cases m with
    | wr n v =>
      rcases writeRegister_control h with hc | ⟨rfl, rfl, hb⟩
      · exact .inl hc
      · exact .inr (.inr (.inl ⟨rfl, hb⟩))
    | rd n => exact .inl (sameControl_readRegister (s := s.setMoves rest) h)
    | wrIn i v => exact .inl (sameControl_writeIn (s := s.setMoves rest) h)
    | rdIn i => exact .inl (sameControl_readIn (s := s.setMoves rest) h)
    | wrOut i v => exact .inl (sameControl_writeOut (s := s.setMoves rest) h)
    | rdOut i => exact .inl (sameControl_readOut (s := s.setMoves rest) h)
    | reset =>
      cases h
      refine .inr (.inr (.inr ⟨rfl, ?_⟩))
      rcases resetEvent_cases (s.setMoves rest) with ⟨-, hr⟩ | ⟨-, hr⟩ <;> rw [hr] <;> rfl
    | engine =>
      rcases engineTurn_control h with hc | ⟨hb, hd, hk, ht⟩
      · exact .inl hc
      · exact .inr (.inl ⟨.inr (.inl hhead), hb, hd, hk, ht⟩)
    | wait =>
      rcases waitTurn_control h with hc | ⟨hb, hd, hk, ht⟩
      · exact .inl hc
      · exact .inr (.inl ⟨.inr (.inr hhead), hb, hd, hk, ht⟩)

end Sys2Proof.Machine
end

/-- Settles O40: of the four things a step can do to STATUS, only completing a run leads to `0b10`. -/
theorem onlyTheRunStepSetsDone : Obligations.OnlyTheRunStepSetsDone := by
  intro s t h hnot hdone
  rcases Sys2Proof.Machine.step_control h with ⟨-, hs⟩ | ⟨hturn, hrun⟩ | ⟨-, hs⟩ | ⟨-, hs⟩
  · exact absurd (hs ▸ hdone) hnot
  · obtain ⟨i, hi⟩ := hrun.decodes
    exact ⟨hrun.wasBusy, i, hi, hturn⟩
  · exact absurd (hs.symm.trans hdone) (by decide)
  · exact absurd (hs.symm.trans hdone) (by decide)

/-- Settles O41: of the four things a step can do to CMD_L, only START and the reset event change it. -/
theorem onlyStartAndResetChangeCommand : Obligations.OnlyStartAndResetChangeCommand := by
  intro s t h hne
  rcases Sys2Proof.Machine.step_control h with ⟨hk, -⟩ | ⟨-, hrun⟩ | ⟨hm, -⟩ | ⟨hm, -⟩
  · exact absurd hk hne
  · exact absurd hrun.cmd_eq hne
  · exact .inl hm
  · exact .inr hm

section
/-! HOST's register accesses, register by register (10_state.md R21 to R28, R36; 30_encoding.md R77). -/

namespace Sys2Proof.Machine

variable {s t : State} {rest : List Move} {n v : Nat}

theorem step_wr (h : s.moves = .wr n v :: rest) : step s = writeRegister (s.setMoves rest) n v :=
  step_cons h

theorem step_rd (h : s.moves = .rd n :: rest) : step s = readRegister (s.setMoves rest) n :=
  step_cons h

/-- A guarded move answers its next state exactly when the guard holds. -/
theorem ite_refused_eq_next {p : Prop} [Decidable p] {u : State} {r : Refusal} :
    ((if p then .next u else .refused r : Host.Outcome State Fault Refusal) = .next t) ↔ p ∧ t = u := by
  split
  next hp => simp [hp, eq_comm]
  next hp => simp [hp]

theorem writeRegister_width_eq_next :
    writeRegister s 0 v = .next t ↔ v < 2 ^ s.params.dimBits ∧ t = s.setWidth v :=
  ite_refused_eq_next

theorem writeRegister_height_eq_next :
    writeRegister s 1 v = .next t ↔ v < 2 ^ s.params.dimBits ∧ t = s.setHeight v :=
  ite_refused_eq_next

theorem writeRegister_ctrl_eq_next :
    writeRegister s 2 v = .next t ↔ v < 256 ∧ t = s.setCtrl (BitVec.ofNat 8 v) :=
  ite_refused_eq_next

theorem writeRegister_start_zero (s : State) : writeRegister s 3 0 = .next s := rfl

theorem writeRegister_start_one (s : State) :
    writeRegister s 3 1 = if busy s then .refused .startWhileBusy else start s := rfl

theorem readRegister_of_ok (h : regValue s n = .ok v) :
    readRegister s n = .next ((s.observe n).receive v) := by
  unfold readRegister
  rw [h]

theorem readRegister_of_error {r : Refusal} (h : regValue s n = .error r) :
    readRegister s n = .refused r := by
  unfold readRegister
  rw [h]

/-- The turns to come do not bear on what a register holds. -/
@[simp] theorem regValue_setMoves (s : State) (ms : List Move) (n : Nat) :
    regValue (s.setMoves ms) n = regValue s n := rfl

@[simp] theorem State.observe_reads (s : State) (n : Nat) : (s.observe n).reads = s.reads := by
  rcases s.observe_cases n with h | ⟨-, -, h⟩ <;> simp [h]

@[simp] theorem State.observe_moves (s : State) (n : Nat) : (s.observe n).moves = s.moves := by
  rcases s.observe_cases n with h | ⟨-, -, h⟩ <;> simp [h]

theorem regValue_setWidth (s : State) (v : Nat) : regValue (s.setWidth v) 0 = .ok v := rfl

theorem regValue_setHeight (s : State) (v : Nat) : regValue (s.setHeight v) 1 = .ok v := rfl

theorem regValue_setCtrl (s : State) (h : v < 256) :
    regValue (s.setCtrl (BitVec.ofNat 8 v)) 2 = .ok v :=
  congrArg Except.ok (BitVec.toNat_ofNat v 8 |>.trans (Nat.mod_eq_of_lt h))

/-- A write of a command register that fits is accepted, and the register then holds the value
(10_state.md R24). -/
theorem exists_writeRegister_regValue (hn : n < 3) (hdim : n < 2 → v < 2 ^ s.params.dimBits)
    (hctrl : n = 2 → v < 256) :
    ∃ t, writeRegister s n v = .next t ∧ regValue t n = .ok v ∧ t.moves = s.moves ∧
      t.reads = s.reads := by
  match n, hn with
  | 0, _ =>
    exact ⟨_, writeRegister_width_eq_next.2 ⟨hdim (by decide), rfl⟩, regValue_setWidth s v, rfl, rfl⟩
  | 1, _ =>
    exact ⟨_, writeRegister_height_eq_next.2 ⟨hdim (by decide), rfl⟩, regValue_setHeight s v, rfl, rfl⟩
  | 2, _ =>
    exact ⟨_, writeRegister_ctrl_eq_next.2 ⟨hctrl rfl, rfl⟩, regValue_setCtrl s (hctrl rfl), rfl, rfl⟩

theorem regValue_width_of_unwritten (h : s.widthWritten = false) :
    regValue s 0 = .error .unwrittenRegister := by
  simp [regValue, h]

theorem regValue_height_of_unwritten (h : s.heightWritten = false) :
    regValue s 1 = .error .unwrittenRegister := by
  simp [regValue, h]

theorem regValue_ctrl_of_unwritten (h : s.ctrlWritten = false) :
    regValue s 2 = .error .unwrittenRegister := by
  simp [regValue, h]

theorem start_of_unwritten (h : (s.widthWritten && s.heightWritten && s.ctrlWritten) = false) :
    start s = .refused .unwrittenRegister := by
  simp [start, startRefusal, h]

/-- The reset event clears the three written-since-reset marks (10_state.md R36). -/
theorem resetEvent_unwritten (s : State) :
    (resetEvent s).widthWritten = false ∧ (resetEvent s).heightWritten = false ∧
      (resetEvent s).ctrlWritten = false := by
  rcases resetEvent_cases s with ⟨-, h⟩ | ⟨-, h⟩ <;> simp [h]

/-- HOST's read of STATUS (10_state.md R27; 20_memory.md R56). -/
theorem readRegister_status_eq (s : State) :
    readRegister s 4 = .next { s with
      reads := s.status.toNat :: s.reads
      unread := if done s then [] else s.unread } := by
  rw [readRegister_status, State.observe_eq]
  cases done s <;> rfl

end Sys2Proof.Machine
end

section
open Sys2Proof.Machine

/-- Settles O49: the write is accepted and leaves the value in the register, and the read returns it. -/
theorem registerReadReturnsLastWrite : Obligations.RegisterReadReturnsLastWrite := by
  intro s rest n v hm hn hdim hctrl
  obtain ⟨t, hw, hv, hmoves, hreads⟩ :=
    exists_writeRegister_regValue (s := s.setMoves (.rd n :: rest)) hn hdim hctrl
  have hrd : readRegister (t.setMoves rest) n = .next (((t.setMoves rest).observe n).receive v) :=
    readRegister_of_ok hv
  refine ⟨t, _, (step_wr hm).trans hw, (step_rd hmoves).trans hrd, ?_, ?_⟩
  · simp [hreads]
  · simp

/-- Settles O50, one conjunct per access: reads and START are refused at a clear mark, an accepted write sets
its mark, the reset event clears all three. -/
theorem unwrittenRegistersAreRefused : Obligations.UnwrittenRegistersAreRefused := by
  intro s rest
  refine ⟨fun hm h => ?_, fun hm h => ?_, fun hm h => ?_, fun hm hb h => ?_, fun v t hm hs => ?_,
    fun v t hm hs => ?_, fun v t hm hs => ?_, fun hm => ?_⟩
  · exact (step_rd hm).trans (readRegister_of_error (regValue_width_of_unwritten h))
  · exact (step_rd hm).trans (readRegister_of_error (regValue_height_of_unwritten h))
  · exact (step_rd hm).trans (readRegister_of_error (regValue_ctrl_of_unwritten h))
  · rw [step_wr hm, writeRegister_start_one, busy_setMoves, hb]
    exact start_of_unwritten h
  · obtain ⟨-, rfl⟩ := writeRegister_width_eq_next.1 (step_wr hm ▸ hs)
    rfl
  · obtain ⟨-, rfl⟩ := writeRegister_height_eq_next.1 (step_wr hm ▸ hs)
    rfl
  · obtain ⟨-, rfl⟩ := writeRegister_ctrl_eq_next.1 (step_wr hm ▸ hs)
    rfl
  · exact ⟨_, step_cons hm, resetEvent_unwritten _⟩

/-- Settles O46, one conjunct per value and STATUS.BUSY. -/
theorem startStrobe : Obligations.StartStrobe := by
  intro s rest v hm
  rw [step_wr hm]
  refine ⟨?_, ?_, ?_⟩
  · rintro rfl
    exact writeRegister_start_zero _
  · rintro rfl hb
    rw [writeRegister_start_one, busy_setMoves, if_pos hb]
  · rintro rfl hb
    rw [writeRegister_start_one, busy_setMoves, if_neg (by simp [hb])]

/-- Settles O48, register by register. -/
theorem commandRegisterWritesStore : Obligations.CommandRegisterWritesStore := by
  intro s rest v
  refine ⟨fun hm hv => ?_, fun hm hv => ?_, fun hm hv => ?_⟩ <;> rw [step_wr hm]
  · exact writeRegister_width_eq_next.2 ⟨hv, rfl⟩
  · exact writeRegister_height_eq_next.2 ⟨hv, rfl⟩
  · exact writeRegister_ctrl_eq_next.2 ⟨hv, rfl⟩

/-- Settles O51: the read of STATUS, with the turn taken off. -/
theorem statusReadHasNoSideEffect : Obligations.StatusReadHasNoSideEffect :=
  fun s rest hm => (step_rd hm).trans (readRegister_status_eq (s.setMoves rest))

end

section
/-! HOST's accesses to the two spaces, cell by cell (20_memory.md R43, R44, R51). -/

namespace Sys2Proof.Machine

variable {s t : State} {rest : List Move} {i : Nat} {v : Sample}

theorem step_wrIn (h : s.moves = .wrIn i v :: rest) : step s = writeIn (s.setMoves rest) i v :=
  step_cons h

theorem step_rdIn (h : s.moves = .rdIn i :: rest) : step s = readIn (s.setMoves rest) i :=
  step_cons h

theorem step_wrOut (h : s.moves = .wrOut i v :: rest) : step s = writeOut (s.setMoves rest) i v :=
  step_cons h

theorem step_rdOut (h : s.moves = .rdOut i :: rest) : step s = readOut (s.setMoves rest) i :=
  step_cons h

theorem step_engine (h : s.moves = .engine :: rest) : step s = engineTurn (s.setMoves rest) :=
  step_cons h

/-! ### Beyond a space -/

theorem writeIn_of_le (v : Sample) (h : s.params.inLen ≤ i) : writeIn s i v = .refused .inOutOfRange :=
  if_pos h

theorem readIn_of_le (h : s.params.inLen ≤ i) : readIn s i = .refused .inOutOfRange :=
  if_pos h

theorem writeOut_of_le (v : Sample) (h : s.params.outLen ≤ i) :
    writeOut s i v = .refused .outOutOfRange :=
  if_pos h

theorem readOut_of_le (h : s.params.outLen ≤ i) : readOut s i = .refused .outOutOfRange :=
  if_pos h

/-! ### IN -/

/-- HOST's write of IN as one update: the cell, the cells it frees, and the conflict mark. -/
theorem writeIn_eq (v : Sample) (h : i < s.params.inLen) :
    writeIn s i v = .next
      { (s.setInp (s.inp.write i v)).freeOut (s.spoiltBelow i) with
        inConflict := s.inConflict || (busy s && decide (i < nIn s.cmd)) } := by
  rw [writeIn_of_lt v h]
  cases hc : busy s && decide (i < nIn s.cmd)
  · simp only [Bool.or_false]
    rfl
  · simp only [Bool.or_true]
    rfl

/-- At or above `N_in` of every open window a write of IN changes nothing but IN. -/
theorem writeIn_of_windows_le (v : Sample) (h : i < s.params.inLen) (hw : ∀ k ∈ s.windows, nIn k ≤ i) :
    writeIn s i v = .next (s.setInp (s.inp.write i v)) := by
  have hrun : (busy s && decide (i < nIn s.cmd)) = false := by
    by_contra hc
    obtain ⟨hb, hi⟩ : busy s = true ∧ i < nIn s.cmd := by simpa using hc
    exact absurd (hw _ (State.mem_windows.2 (.inl ⟨hb, rfl⟩))) (by omega)
  rw [writeIn_eq v h, hrun, State.spoiltBelow_eq_zero hw, State.freeOut_zero, Bool.or_false]
  rfl

theorem readIn_of_lt (h : i < s.params.inLen) : readIn s i = .next (s.receive (s.inp.read i).toNat) :=
  if_neg (by omega)

/-! ### OUT -/

theorem outBelow_unread_le_outBelow_windows (s : State) : outBelow s.unread ≤ outBelow s.windows := by
  refine Nat.le_of_not_lt fun h => ?_
  obtain ⟨k, hk, hlt⟩ := lt_outBelow.1 h
  exact absurd (lt_outBelow.2 ⟨k, State.mem_windows.2 (.inr hk), hlt⟩) (lt_irrefl _)

/-- An OUT cell of the run in flight is only marked: it takes its value at DONE (20_memory.md R61). -/
theorem writeOut_of_running (v : Sample) (h : i < s.params.outLen) (hb : busy s = true)
    (hi : i < nOut s.cmd) : writeOut s i v = .next (s.markOutConflict i) := by
  simp [writeOut, h.not_ge, hb, hi]

/-- An OUT cell of an ended run takes a free value at once (70_reset_and_hazards.md R217). -/
theorem writeOut_of_unread (v : Sample) (h : i < s.params.outLen) (hc : busy s = true → nOut s.cmd ≤ i)
    (hi : i < outBelow s.unread) :
    writeOut s i v =
      .next ((s.setOut (s.out.write i (Config.freeSample s.freeCtr))).drawFree 1) := by
  have hrun : ¬ (busy s = true ∧ i < nOut s.cmd) := fun ⟨hb, hlt⟩ => by have := hc hb; omega
  simp [writeOut, h.not_ge, hrun, hi]

/-- At or above `N_out` of every open window a write of OUT is stored (20_memory.md R44). -/
theorem writeOut_of_windows_le (v : Sample) (h : i < s.params.outLen) (hw : outBelow s.windows ≤ i) :
    writeOut s i v = .next (s.setOut (s.out.write i v)) := by
  have hrun : ¬ (busy s = true ∧ i < nOut s.cmd) := fun ⟨hb, hlt⟩ =>
    absurd (lt_outBelow.2 ⟨_, State.mem_windows.2 (.inl ⟨hb, rfl⟩), hlt⟩) (by omega)
  have hunread : outBelow s.unread ≤ i := (outBelow_unread_le_outBelow_windows s).trans hw
  simp [writeOut, h.not_ge, hrun, hunread.not_gt]

/-- At or above `N_out` of every open window a read of OUT returns the cell (20_memory.md R44). -/
theorem readOut_of_windows_le (h : i < s.params.outLen) (hw : outBelow s.windows ≤ i) :
    readOut s i = .next (s.receive (s.out.read i).toNat) := by
  simp [readOut, h.not_ge, hw.not_gt]

end Sys2Proof.Machine
end

section
/-! What a step can do to IN (20_memory.md R53). -/

namespace Sys2Proof.Machine

variable {s t : State} {rest : List Move} {i : Nat} {v : Sample}

@[simp] theorem State.observe_inp (s : State) (n : Nat) : (s.observe n).inp = s.inp := by
  rcases s.observe_cases n with h | ⟨-, -, h⟩ <;> simp [h]

@[simp] theorem resetEvent_inp (s : State) : (resetEvent s).inp = s.inp := by
  rcases resetEvent_cases s with ⟨-, h⟩ | ⟨-, h⟩ <;> simp [h]

/-- ENGINE never writes IN (20_memory.md R53). -/
theorem engineTurn_inp (h : engineTurn s = .next t) : t.inp = s.inp := by
  rcases engineTurn_next h with ⟨-, i, -, he⟩ | ⟨-, rfl⟩
  · rw [exec_eq_runMethod] at he
    obtain ⟨-, rfl⟩ := runMethod_next he
    rfl
  · rfl

theorem writeRegister_inp {n v : Nat} (h : writeRegister s n v = .next t) : t.inp = s.inp := by
  rcases writeRegister_next h with ⟨-, -, rfl⟩ | ⟨-, -, rfl⟩ | ⟨-, -, rfl⟩ | ⟨-, -, rfl⟩ |
    ⟨-, -, -, -, rfl⟩ | ⟨-, -, rfl⟩ <;> rfl

theorem readRegister_inp {n : Nat} (h : readRegister s n = .next t) : t.inp = s.inp := by
  obtain ⟨v, -, rfl⟩ := readRegister_next h
  simp

theorem writeIn_inp (h : writeIn s i v = .next t) : t.inp = s.inp.write i v := by
  obtain ⟨-, ⟨-, -, rfl⟩ | ⟨-, rfl⟩⟩ := writeIn_next h <;> rfl

theorem readIn_inp (h : readIn s i = .next t) : t.inp = s.inp := by
  obtain ⟨-, rfl⟩ := readIn_next h
  rfl

theorem writeOut_inp (h : writeOut s i v = .next t) : t.inp = s.inp := by
  obtain ⟨-, ⟨-, -, rfl⟩ | ⟨-, -, rfl⟩ | ⟨-, -, rfl⟩⟩ := writeOut_next h <;> rfl

theorem readOut_inp (h : readOut s i = .next t) : t.inp = s.inp := by
  obtain ⟨-, ⟨-, rfl⟩ | ⟨-, rfl⟩⟩ := readOut_next h <;> rfl

theorem waitTurn_inp (h : waitTurn s rest = .next t) : t.inp = s.inp := by
  rcases waitTurn_next h with ⟨-, rfl⟩ | ⟨-, he⟩
  · rfl
  · exact engineTurn_inp he

/-- All a turn can do to IN: nothing, or HOST's write of one cell. -/
theorem moveTurn_inp {m : Move} (h : moveTurn m s = .next t) :
    t.inp = s.inp ∨ ∃ i v, m = .wrIn i v ∧ t.inp = s.inp.write i v := by
  cases m with
  | wr n v => exact .inl (writeRegister_inp h)
  | rd n => exact .inl (readRegister_inp h)
  | wrIn i v => exact .inr ⟨i, v, rfl, writeIn_inp h⟩
  | rdIn i => exact .inl (readIn_inp h)
  | wrOut i v => exact .inl (writeOut_inp h)
  | rdOut i => exact .inl (readOut_inp h)
  | wait => exact .inl (waitTurn_inp (s := s.setMoves (.wait :: s.moves)) h)
  | reset =>
    cases h
    exact .inl (resetEvent_inp s)
  | engine => exact .inl (engineTurn_inp h)

/-- All a step can do to IN. -/
theorem step_inp (h : step s = .next t) :
    t.inp = s.inp ∨ ∃ i v, s.moves.head? = some (.wrIn i v) ∧ t.inp = s.inp.write i v := by
  cases hm : s.moves with
  | nil => exact .inl (engineTurn_inp (step_nil hm ▸ h))
  | cons m rest =>
    rcases moveTurn_inp (s := s.setMoves rest) (step_cons hm ▸ h) with hi | ⟨i, v, rfl, hi⟩
    · exact .inl hi
    · exact .inr ⟨i, v, rfl, hi⟩

end Sys2Proof.Machine
end

section
/-! The geometry by METHOD code, which fixes `N_out` (20_memory.md R49). -/

namespace Sys2Proof.Machine

/-- DOWNSAMPLE, code 4, alone halves the image (30_encoding.md R67; 41_dispatcher.md R100). -/
theorem geometryOf_ofCode (m : BitVec 3) :
    geometryOf (Method.ofCode m) = if m = 4#3 then .half else .full := by
  revert m
  decide

end Sys2Proof.Machine
end

section
open Sys2Proof Sys2Proof.Machine

/-- Settles O55, one conjunct per space. -/
theorem accessBeyondASpaceIsRefused : Obligations.AccessBeyondASpaceIsRefused := by
  refine fun s rest a v => ⟨?_, ?_⟩
  · rintro h (hm | hm)
    · exact (step_wrIn hm).trans (writeIn_of_le v h)
    · exact (step_rdIn hm).trans (readIn_of_le h)
  · rintro h (hm | hm)
    · exact (step_wrOut hm).trans (writeOut_of_le v h)
    · exact (step_rdOut hm).trans (readOut_of_le h)

/-- Settles O47: the geometry follows from the METHOD code. -/
theorem sampleCountsOfCommand : Obligations.SampleCountsOfCommand := by
  have hcount (k : Command) : nOut k = nOutOf (if ctrlMethod k.ctrl = 4#3 then .half else .full) k :=
    congrArg (nOutOf · k) (geometryOf_ofCode _)
  refine fun k => ⟨rfl, fun h => ?_, fun h => ?_⟩ <;> rw [hcount]
  · rw [if_neg h]
    rfl
  · rw [if_pos h]
    rfl

/-- Settles O42: the one write of IN a step can be, read back. -/
theorem onlyHostWritesChangeInput : Obligations.OnlyHostWritesChangeInput := by
  intro s t hwf h a hne
  rcases step_inp h with hi | ⟨i, v, hm, hi⟩
  · exact absurd (by rw [hi]) hne
  · rw [hi, Memory.read_write hwf] at hne ⊢
    obtain rfl : i = a := by
      by_contra hia
      exact hne (if_neg hia)
    exact ⟨v, hm, if_pos rfl⟩

/-- Settles O56: the write as one update of the state, then the read of a cell. -/
theorem inputCellsReadBack : Obligations.InputCellsReadBack := by
  intro s rest a b v hm hwf ha hb
  refine ⟨_, _, (step_wrIn hm).trans (writeIn_eq v ha), (step_rdIn rfl).trans (readIn_of_lt hb), rfl, ?_, ?_⟩
  · simp [Memory.read_write hwf, apply_ite BitVec.toNat]
  · intro hw
    have hplain := Host.Outcome.next.inj
      ((writeIn_eq (s := s.setMoves (.rdIn b :: rest)) v ha).symm.trans (writeIn_of_windows_le v ha hw))
    rw [hplain]
    rfl

/-- Settles O57: outside every open window the write is stored and the read returns the cell. -/
theorem outputCellsReadBack : Obligations.OutputCellsReadBack := by
  intro s rest a b v hm hwf hw ha hb
  have hwa : outBelow s.windows ≤ a := outBelow_le fun k hk => (hw k hk).1
  have hwb : outBelow s.windows ≤ b := outBelow_le fun k hk => (hw k hk).2
  refine ⟨_, _, (step_wrOut hm).trans (writeOut_of_windows_le v ha hwa),
    (step_rdOut rfl).trans (readOut_of_windows_le hb hwb), ?_, rfl⟩
  simp [Memory.read_write hwf, apply_ite BitVec.toNat]

end

section
/-! Sample reads at clamped coordinates (20_memory.md R46, R47). -/

namespace Sys2Proof.Machine

variable {v : View} {x x' y y' : Int}

theorem View.cx_of_neg (h : x < 0) : v.cx x = v.cx 0 := by
  unfold View.cx
  omega

theorem View.cx_of_width_le (h : v.width ≤ x) : v.cx x = v.cx (v.width - 1) := by
  unfold View.cx
  omega

theorem View.cy_of_neg (h : y < 0) : v.cy y = v.cy 0 := by
  unfold View.cy
  omega

theorem View.cy_of_height_le (h : v.height ≤ y) : v.cy y = v.cy (v.height - 1) := by
  unfold View.cy
  omega

/-- A sample read sees a position through its clamped coordinates only. -/
theorem View.sample_eq_of_clamped_eq (hx : v.cx x = v.cx x') (hy : v.cy y = v.cy y') :
    v.sample x y = v.sample x' y' := by
  unfold View.sample
  rw [hx, hy]

/-- In range a sample read is of cell `y * W + x`. -/
theorem View.sample_of_lt {x y : Nat} (hx : x < v.width) (hy : y < v.height) :
    v.sample x y = v.cell (y * v.width + x) := by
  unfold View.sample
  rw [View.cx_of_mem (Int.natCast_nonneg x) (Int.ofNat_lt.2 hx),
    View.cy_of_mem (Int.natCast_nonneg y) (Int.ofNat_lt.2 hy)]
  exact congrArg v.cell (Int.toNat_natCast (y * v.width + x))

end Sys2Proof.Machine
end

section
/-! What a run that HOST may have spoilt leaves in OUT (20_memory.md R61). -/

namespace Sys2Proof.Machine

variable {s t : State} {g : Geometry} {d : Depth} {i : Instr}

/-- The state a run that is not refused leads to (41_dispatcher.md R102, R103). -/
def afterRun (i : Instr) (s : State) : State :=
  s.complete (runOut i.geometry (viewOf s i.depth i.pattern) (methodValue i.method) s)
    (runCtr i.geometry s)

/-- All a command can do. -/
theorem exec_eq_next : exec i s = .next t ↔ runRefusal i.geometry i.depth s = none ∧ t = afterRun i s := by
  rw [exec_eq_runMethod]
  exact ⟨runMethod_next, fun ⟨hr, ht⟩ => ht ▸ runMethod_of_none hr⟩

/-- A run that fits is refused only if it is unspoilt at a depth its mosaic does not suit. -/
theorem RunFits.exec_eq (h : RunFits i.geometry s) (hd : s.inConflict = false → DepthFits i.depth s) :
    exec i s = .next (afterRun i s) :=
  exec_eq_next.2 ⟨runRefusal_eq_none.2
    ⟨h.paramsOk, decide_eq_true h.widthOk, decide_eq_true h.heightOk, h.inFits, h.outFits,
      fun h8 hc => (Memory.exceedsByte_eq_false h.inpWf _).2 (hd hc h8)⟩, rfl⟩

/-- What HOST spoilt bears on no view: the view of a run that fits is legal if the mosaic suits the depth. -/
theorem RunFits.legal (h : RunFits g s) (hd : DepthFits d s) (p : Pattern) : (viewOf s d p).Legal :=
  RunReady.legal (s := { s with inConflict := false, outConflicts := [] })
    { h with depthOk := hd, inClean := rfl, outClean := rfl } p

/-! ### A single cell -/

theorem finalSample_of_spoilt {a : Nat} (h : s.inConflict = true ∨ a ∈ s.outConflicts) (v : Sample) :
    finalSample s a v = Config.freeSample (s.freeCtr + a) := by
  simp [finalSample, h]

theorem finalSample_of_not_spoilt {a : Nat} (hi : s.inConflict = false) (ho : a ∉ s.outConflicts)
    (v : Sample) : finalSample s a v = v := by
  simp [finalSample, hi, ho]

/-- HOST's write of an OUT cell spoils no other cell. -/
theorem finalSample_markOutConflict {a b : Nat} (h : b ≠ a) (v : Sample) :
    finalSample (s.markOutConflict a) b v = finalSample s b v := by
  simp [finalSample, mem_insertRising, h]

/-- A value of `[0, MAX]` fits a cell (20_memory.md R41). -/
theorem toNat_ofInt_of_mem {z : Int} (h0 : 0 ≤ z) (h1 : z ≤ maxSample d) :
    ((BitVec.ofInt 16 z).toNat : Int) = z := by
  have hlt := maxSample_lt d
  rw [BitVec.toNat_ofInt]
  omega

/-! ### The image -/

/-- A cell of the image that HOST spoilt is a free value. -/
theorem read_afterRun_of_spoilt (hs : s.out.wf) {a : Nat} (ha : a < nOutOf i.geometry s.cmd)
    (h : s.inConflict = true ∨ a ∈ s.outConflicts) :
    (afterRun i s).out.read a = Config.freeSample (s.freeCtr + a) := by
  obtain ⟨x, y, c, hx, hy, rfl⟩ := exists_outIndex ha
  exact (read_runOut hs hx hy c).trans (finalSample_of_spoilt h _)

/-- A cell of the image that HOST did not spoil holds the method's value. -/
theorem RunFits.read_afterRun (h : RunFits i.geometry s) (hd : DepthFits i.depth s)
    (hc : s.inConflict = false) {x y : Nat} {c : Chan} (hx : x < outCols i.geometry s.cmd)
    (hy : y < outRows i.geometry s.cmd)
    (ho : outIndex (outCols i.geometry s.cmd) x y c ∉ s.outConflicts) :
    (((afterRun i s).out.read (outIndex (outCols i.geometry s.cmd) x y c)).toNat : Int) =
      methodValue i.method (viewOf s i.depth i.pattern) c x y := by
  have hread := (read_runOut h.outWf hx hy c).trans (finalSample_of_not_spoilt hc ho
    (BitVec.ofInt 16 (methodValue i.method (viewOf s i.depth i.pattern) c x y)))
  obtain ⟨h0, h1⟩ := everyMethodStaysInRange i.method _ c x y (h.legal hd i.pattern) hx hy
  exact (congrArg (fun w : Sample => (w.toNat : Int)) hread).trans (toNat_ofInt_of_mem h0 h1)

/-- HOST's write of an OUT cell during the run bears on no other cell. -/
theorem read_afterRun_markOutConflict (hs : s.out.wf) {a b : Nat} (hne : b ≠ a) :
    (afterRun i (s.markOutConflict a)).out.read b = (afterRun i s).out.read b := by
  by_cases hb : b < nOutOf i.geometry s.cmd
  · obtain ⟨x, y, c, hx, hy, rfl⟩ := exists_outIndex hb
    calc (afterRun i (s.markOutConflict a)).out.read _
        = finalSample (s.markOutConflict a) _ _ := read_runOut (s := s.markOutConflict a) hs hx hy c
      _ = finalSample s _ _ := finalSample_markOutConflict hne _
      _ = (afterRun i s).out.read _ := (read_runOut hs hx hy c).symm
  · exact (read_runOut_above (s := s.markOutConflict a) hs (Nat.le_of_not_lt hb)).trans
      (read_runOut_above hs (Nat.le_of_not_lt hb)).symm

/-! ### The run in flight -/

/-- The invariant makes the run in flight fit (41_dispatcher.md R101). -/
theorem State.Inv.runFits (h : s.Inv) (hb : s.status = statusBusy) (hi : decode s.cmd.ctrl = .ok i) :
    RunFits i.geometry s := by
  obtain ⟨hwf, hin, hout⟩ := h.runLegal (statusBusy_busy hb)
  simp only [Command.wellFormed, Command.widthLegal, Command.heightLegal, Bool.and_eq_true,
    decide_eq_true_eq] at hwf
  obtain ⟨⟨-, hw⟩, hh⟩ := hwf
  exact ⟨h.paramsOk, hw, hh, hin, (nOutOf_of_decode hi).trans_le hout, h.inpWf, h.outWf⟩

/-- The command of the run in flight decodes (30_encoding.md R73). -/
theorem State.Inv.exists_decode (h : s.Inv) (hb : s.status = statusBusy) :
    ∃ i, decode s.cmd.ctrl = .ok i := by
  obtain ⟨hwf, -, -⟩ := h.runLegal (statusBusy_busy hb)
  simp only [Command.wellFormed, Bool.and_eq_true] at hwf
  obtain ⟨⟨hctrl, -⟩, -⟩ := hwf
  exact decode_of_legal hctrl

/-- In every state of the invariant with STATUS `0b01` ENGINE's turn completes the run (41_dispatcher.md R102). -/
theorem State.Inv.engineTurn_eq (h : s.Inv) (hb : s.status = statusBusy)
    (hi : decode s.cmd.ctrl = .ok i) : engineTurn s = .next (afterRun i s) := by
  refine (engineTurn_of_decode hb hi).trans ((h.runFits hb hi).exec_eq fun hc h8 => ?_)
  exact (Memory.exceedsByte_eq_false h.inpWf _).1
    (h.depthOk (statusBusy_busy hb) hc ((depth_of_decode hi).symm.trans h8))

end Sys2Proof.Machine
end

section
open Sys2Proof Sys2Proof.Machine

/-- Settles O9, through the clamped coordinates. -/
theorem sampleReadsReplicateEdges : Obligations.SampleReadsReplicateEdges := by
  intro v hw hh
  refine ⟨fun x y hx hy => View.sample_of_lt hx hy, fun x y hx => ?_, fun x y hx => ?_, fun x y hy => ?_,
    fun x y hy => ?_, fun x y => ⟨_, View.sampleIndex_lt hw hh x y, rfl⟩⟩
  · exact View.sample_eq_of_clamped_eq (View.cx_of_neg hx) rfl
  · exact View.sample_eq_of_clamped_eq (View.cx_of_width_le hx) rfl
  · exact View.sample_eq_of_clamped_eq rfl (View.cy_of_neg hy)
  · exact View.sample_eq_of_clamped_eq rfl (View.cy_of_height_le hy)

/-- Settles O36: the frame is that of completing a run, the cells above those no write of it names. -/
theorem runLeavesEverythingElse : Obligations.RunLeavesEverythingElse := by
  intro i s t hwf h
  obtain ⟨-, rfl⟩ := exec_eq_next.1 h
  exact ⟨rfl, fun a ha => read_runOut_above hwf ha⟩

/-- Settles O37: with IN spoilt the depth is not checked and every cell of the image is spoilt. -/
theorem runWithSpoiltInputGivesAnyValues : Obligations.RunWithSpoiltInputGivesAnyValues := by
  intro i s h hc
  refine ⟨afterRun i s, h.exec_eq (by simp [hc]), rfl, ?_, fun a ha => ?_⟩
  · simp [afterRun, runCtr, spoilt, hc]
  · exact read_afterRun_of_spoilt h.outWf ha (.inl hc)

/-- Settles O38, cell by cell. -/
theorem runWithSpoiltOutputFreesThoseCells : Obligations.RunWithSpoiltOutputFreesThoseCells := by
  intro i s h hd hc
  refine ⟨afterRun i s, h.exec_eq fun _ => hd, rfl, fun x y c hx hy => ⟨fun ha => ?_, fun ha => ?_⟩⟩
  · exact read_afterRun_of_spoilt h.outWf (outIndex_lt hx hy c) (.inr ha)
  · exact h.read_afterRun hd hc hx hy ha

/-- Settles O59. During the run the write marks IN as spoilt and ENGINE's turn frees the whole image; of the
ended runs it frees the cells at once. -/
theorem inputWriteDuringRunSpoilsOutput : Obligations.InputWriteDuringRunSpoilsOutput := by
  intro s rest a v h hm
  have hwrite (ha : a < s.params.inLen) := (step_wrIn hm).trans (writeIn_eq (s := s.setMoves rest) v ha)
  constructor
  · rintro more hb rfl ha
    have hbusy := statusBusy_busy hb
    have hstep := hwrite (ha.trans_le (h.runLegal hbusy).2.1)
    obtain ⟨i, hi⟩ := h.exists_decode hb
    have hmarked := (step_inv h hstep).setMoves more
    refine ⟨_, _, hstep, (step_engine rfl).trans (hmarked.engineTurn_eq hb hi), rfl, ?_, fun b hlt => ?_⟩
    · exact (Memory.read_write h.inpWf a a v).trans (if_pos rfl)
    · exact read_afterRun_of_spoilt hmarked.outWf (hlt.trans_eq (nOutOf_of_decode hi).symm)
        (.inl (by simp [hbusy, ha]))
  · intro k hk ha
    obtain ⟨-, hin, -⟩ := h.windowsLegal k (State.mem_windows.2 (.inr hk))
    have hread := State.read_freeOut (s := s) h.outWf (s.spoiltBelow a)
    refine ⟨_, hwrite (ha.trans_le hin), rfl, ?_, fun b hlt => ?_, fun b hle => ?_⟩
    · exact (Memory.read_write h.inpWf a a v).trans (if_pos rfl)
    · exact (hread b).trans (if_pos (State.lt_spoiltBelow.2 ⟨k, hk, ha, hlt⟩))
    · refine (hread b).trans (if_neg fun hlt => ?_)
      obtain ⟨j, hj, haj, hbj⟩ := State.lt_spoiltBelow.1 hlt
      exact absurd (hle j hj haj) (by omega)

/-- Settles O60. During the run the write marks the cell, and the runs with and without the mark differ there
only; of an ended run the cell takes a free value at once. -/
theorem outputWriteDuringRunSpoilsThatCell : Obligations.OutputWriteDuringRunSpoilsThatCell := by
  intro s rest a v h hm
  constructor
  · rintro more hb rfl ha
    have hbusy := statusBusy_busy hb
    obtain ⟨-, -, hout⟩ := h.runLegal hbusy
    obtain ⟨i, hi⟩ := h.exists_decode hb
    have hclean := h.setMoves more
    have hmarked := hclean.markOutConflict hbusy ha
    refine ⟨_, _, _,
      (step_wrOut hm).trans (writeOut_of_running (s := s.setMoves _) v (ha.trans_le hout) hbusy ha),
      (step_engine rfl).trans (hmarked.engineTurn_eq hb hi), rfl, ?_,
      (step_engine rfl).trans (hclean.engineTurn_eq hb hi),
      fun b hne => read_afterRun_markOutConflict hclean.outWf hne⟩
    exact read_afterRun_of_spoilt hmarked.outWf (ha.trans_eq (nOutOf_of_decode hi).symm)
      (.inr (mem_insertRising.2 (.inl rfl)))
  · intro k hk ha hc
    obtain ⟨-, -, hout⟩ := h.windowsLegal k (State.mem_windows.2 (.inr hk))
    have hnot : busy s = true → nOut s.cmd ≤ a := fun hb =>
      hc.resolve_left (not_not.2 (status_of_busy h.statusLegal hb))
    have hread := Memory.read_write h.outWf a
    refine ⟨_, (step_wrOut hm).trans (writeOut_of_unread (s := s.setMoves rest) v (ha.trans_le hout) hnot
      (lt_outBelow.2 ⟨k, hk, ha⟩)), rfl, ?_, fun b hne => ?_⟩
    · exact (hread a _).trans (if_pos rfl)
    · exact (hread b _).trans (if_neg hne.symm)

end

section
/-! The encoding field by field (30_encoding.md R66 to R73): the decoder and the encoder are inverse. -/

namespace Sys2Proof

/-- The codes of depths, patterns and methods are fully used (30_encoding.md R67 to R69). -/
@[simp] theorem Depth.code_ofCode (d : BitVec 1) : (Depth.ofCode d).code = d := by
  revert d
  decide

@[simp] theorem Pattern.code_ofCode (p : BitVec 2) : (Pattern.ofCode p).code = p := by
  revert p
  decide

@[simp] theorem Method.code_ofCode (m : BitVec 3) : (Method.ofCode m).code = m := by
  revert m
  decide

/-- A CTRL value without reserved bits is its three fields put together (30_encoding.md R66). -/
theorem ctrl_eq_fields {c : BitVec 8} (h : ctrlReserved c = 0) :
    (ctrlDepth16 c).setWidth 8 <<< 5 ||| (ctrlPattern c).setWidth 8 <<< 3 ||| (ctrlMethod c).setWidth 8 = c := by
  revert c
  decide

/-- The encoder of an opcode and a pattern puts the three codes together (30_encoding.md R71). -/
theorem encode_ofOpcode (d : Depth) (m : Method) (p : Pattern) :
    encode (Instr.ofOpcode d m p) =
      d.code.setWidth 8 <<< 5 ||| p.code.setWidth 8 <<< 3 ||| m.code.setWidth 8 := by
  simp [encode]

/-- The encoder undoes the decoder (30_encoding.md R73). -/
theorem encode_of_decode {c : BitVec 8} {i : Instr} (h : decode c = .ok i) : encode i = c := by
  obtain ⟨hc, rfl⟩ := Machine.decode_ok h
  rw [encode_ofOpcode, Depth.code_ofCode, Pattern.code_ofCode, Method.code_ofCode, ctrl_eq_fields hc]

open Laws.RoundTrip in
/-- The decoder undoes the encoder, command by command (30_encoding.md R71, R73). -/
theorem decode_encode (i : Instr) : decode (encode i) = .ok i := by
  cases i with
  | nearest8 p => exact nearest8 p
  | simple8 p => exact simple8 p
  | bilinear8 p => exact bilinear8 p
  | hqlinear8 p => exact hqlinear8 p
  | downsample8 p => exact downsample8 p
  | edgesense8 p => exact edgesense8 p
  | vng8 p => exact vng8 p
  | ahd8 p => exact ahd8 p
  | nearest16 p => exact nearest16 p
  | simple16 p => exact simple16 p
  | bilinear16 p => exact bilinear16 p
  | hqlinear16 p => exact hqlinear16 p
  | downsample16 p => exact downsample16 p
  | edgesense16 p => exact edgesense16 p
  | vng16 p => exact vng16 p
  | ahd16 p => exact ahd16 p

/-- The encoder leaves the reserved bits zero (30_encoding.md R71, R72). -/
theorem ctrlReserved_encode (i : Instr) : ctrlReserved (encode i) = 0 :=
  (Machine.decode_ok (decode_encode i)).1

/-- The reserved bits alone make the decoder reject (30_encoding.md R72). -/
theorem decode_eq_error {c : BitVec 8} : decode c = .error .reservedCtrlBits ↔ ctrlReserved c ≠ 0 := by
  unfold decode
  split
  next h => exact iff_of_false nofun (not_not.2 h)
  next h => exact iff_of_true rfl h

/-- The reserved bits are those of weight 64 and 128 (30_encoding.md R66). -/
theorem ctrlReserved_eq_zero {c : BitVec 8} : ctrlReserved c = 0 ↔ c.toNat < 64 := by
  have hlt := c.isLt
  rw [← BitVec.toNat_inj, ctrlReserved, BitVec.extractLsb'_toNat, Nat.shiftRight_eq_div_pow]
  simp only [BitVec.ofNat_eq_ofNat, BitVec.toNat_ofNat]
  omega

theorem isOk_decode_eq_false {c : BitVec 8} : (decode c).isOk = false ↔ 64 ≤ c.toNat := by
  rw [← not_lt, ← ctrlReserved_eq_zero]
  unfold decode
  split
  next h => exact iff_of_false nofun (not_not.2 h)
  next h => exact iff_of_true rfl h

/-- The rejected CTRL values are those from 64 on (30_encoding.md R72). -/
theorem length_filter_rejected :
    ((List.range 256).filter fun n => (decode (BitVec.ofNat 8 n)).isOk = false).length = 192 := by
  have hcongr : ∀ n ∈ List.range 256,
      decide ((decode (BitVec.ofNat 8 n)).isOk = false) = decide (64 ≤ n) := fun n hn => by
    have htoNat : (BitVec.ofNat 8 n).toNat = n :=
      (BitVec.toNat_ofNat n 8).trans (Nat.mod_eq_of_lt (List.mem_range.1 hn))
    rw [decide_eq_decide, isOk_decode_eq_false, htoNat]
  rw [List.filter_congr hcongr]
  rfl

end Sys2Proof
end

section
/-! START, WR and RD where they are refused (30_encoding.md R72, R76; 10_state.md R24), and the four writes of
DECODE (30_encoding.md R78). -/

open Sys2Proof

namespace Sys2Proof.Machine

variable {s t : State} {rest : List Move} {n v w h : Nat} {i : Instr}

/-- The second check of START, where the first has passed (41_dispatcher.md R101). -/
theorem start_of_reserved (hw : s.widthWritten = true) (hh : s.heightWritten = true)
    (hc : s.ctrlWritten = true) (hr : ctrlReserved s.ctrl ≠ 0) : start s = .refused .reservedCtrlBits := by
  have hl : (liveCommand s).ctrlLegal = false := decide_eq_false hr
  simp [start, startRefusal, hw, hh, hc, hl]

theorem writeRegister_width_of_le (hv : 2 ^ s.params.dimBits ≤ v) :
    writeRegister s 0 v = .refused .valueTooWide := if_neg hv.not_gt

theorem writeRegister_height_of_le (hv : 2 ^ s.params.dimBits ≤ v) :
    writeRegister s 1 v = .refused .valueTooWide := if_neg hv.not_gt

theorem writeRegister_ctrl_of_le (hv : 256 ≤ v) : writeRegister s 2 v = .refused .valueTooWide :=
  if_neg hv.not_gt

theorem writeRegister_start_of_le (hv : 2 ≤ v) : writeRegister s 3 v = .refused .valueTooWide :=
  (if_neg (by omega)).trans (if_neg (by omega))

theorem writeRegister_status_of_le (hv : 4 ≤ v) : writeRegister s 4 v = .refused .valueTooWide :=
  if_neg hv.not_gt

theorem writeRegister_status_of_lt (hv : v < 4) : writeRegister s 4 v = .next s := if_pos hv

/-- No register has a number above 4 (30_encoding.md R76). -/
theorem writeRegister_of_five_le (hn : 5 ≤ n) : writeRegister s n v = .refused .noSuchRegister := by
  obtain ⟨k, rfl⟩ := Nat.exists_eq_add_of_le' hn
  rfl

theorem readRegister_of_five_le (hn : 5 ≤ n) : readRegister s n = .refused .noSuchRegister := by
  obtain ⟨k, rfl⟩ := Nat.exists_eq_add_of_le' hn
  rfl

theorem readRegister_start (s : State) : readRegister s 3 = .refused .startWriteOnly := rfl

/-! ### DECODE -/

/-- A run of `k + 1` steps is its first step, then `k` steps. -/
theorem run_succ_of_step {k : Nat} (hs : step s = .next t) :
    Host.Core.run core (k + 1) s = Host.Core.run core k t := by
  have hs' : core.step s = .next t := hs
  simp only [Host.Core.run, hs']

/-- The command that DECODE spells (30_encoding.md R65, R78). -/
def decodeCommand (i : Instr) (w h : Nat) : Command := { ctrl := encode i, width := w, height := h }

/-- HOST's registers after the first three writes of DECODE, with the turns that follow (30_encoding.md R78). -/
def State.prepareDecode (s : State) (i : Instr) (w h : Nat) (ms : List Move) : State :=
  (((s.setMoves ms).setWidth w).setHeight h).setCtrl (encode i)

theorem liveCommand_prepareDecode (s : State) (i : Instr) (w h : Nat) (ms : List Move) :
    liveCommand (s.prepareDecode i w h ms) = decodeCommand i w h := rfl

theorem writeRegister_ctrl_encode (s : State) (i : Instr) :
    writeRegister s 2 (encode i).toNat = .next (s.setCtrl (encode i)) :=
  writeRegister_ctrl_eq_next.2 ⟨(encode i).isLt, by rw [BitVec.ofNat_toNat, BitVec.setWidth_eq]⟩

/-- The command that DECODE spells passes START's checks on an engine that suits it (41_dispatcher.md R101). -/
theorem startRefusal_prepareDecode (ms : List Move) (hw : 2 ≤ w) (hh : 2 ≤ h)
    (hin : w * h ≤ s.params.inLen) (hout : nOutOf i.geometry (decodeCommand i w h) ≤ s.params.outLen)
    (hwf : Memory.wf s.inp) (hd : i.depth = .d8 → ∀ a < w * h, (s.inp.read a).toNat ≤ 255) :
    startRefusal (s.prepareDecode i w h ms) = none := by
  have hdec : decode (decodeCommand i w h).ctrl = .ok i := decode_encode i
  have hlegal : (decodeCommand i w h).wellFormed = true := by
    simp [Command.wellFormed, Command.ctrlLegal, Command.widthLegal, Command.heightLegal, decodeCommand,
      Config.minDim, ctrlReserved_encode, hw, hh]
  refine startRefusal_eq_none.2 ⟨rfl, rfl, rfl, hlegal, hin, (nOutOf_of_decode hdec).symm.trans_le hout, ?_⟩
  exact fun h8 => (Memory.exceedsByte_eq_false hwf _).2 (hd ((depth_of_decode hdec).trans h8))

/-- The four writes of DECODE latch the command it spells, where START's checks pass (30_encoding.md R78). -/
theorem run_decodeMoves {ms : List Move} (hm : s.moves = decodeMoves i w h ++ ms) (hb : busy s = false)
    (hwfit : w < 2 ^ s.params.dimBits) (hhfit : h < 2 ^ s.params.dimBits)
    (hr : startRefusal (s.prepareDecode i w h ms) = none) :
    Host.Core.run core 4 s = .next ((s.prepareDecode i w h ms).latch (decodeCommand i w h)) := by
  have hb' : busy (s.prepareDecode i w h ms) = false := hb
  have hstart : writeRegister (s.prepareDecode i w h ms) 3 1 =
      .next ((s.prepareDecode i w h ms).latch (decodeCommand i w h)) := by
    rw [writeRegister_start_one, hb', if_neg Bool.false_ne_true, start_of_none hr, liveCommand_prepareDecode]
  calc Host.Core.run core 4 s
      = Host.Core.run core 3 _ :=
        run_succ_of_step ((step_wr hm).trans (writeRegister_width_eq_next.2 ⟨hwfit, rfl⟩))
    _ = Host.Core.run core 2 _ :=
        run_succ_of_step ((step_wr rfl).trans (writeRegister_height_eq_next.2 ⟨hhfit, rfl⟩))
    _ = Host.Core.run core 1 _ := run_succ_of_step ((step_wr rfl).trans (writeRegister_ctrl_encode _ i))
    _ = Host.Core.run core 0 _ := run_succ_of_step ((step_wr rfl).trans hstart)
    _ = _ := rfl

end Sys2Proof.Machine
end

section
/-! HOST's polling loop, by STATUS (30_encoding.md R78; 70_reset_and_hazards.md R216). -/

namespace Sys2Proof.Machine

variable {s : State} {rest : List Move}

theorem done_eq_false_of_busy (hb : s.status = statusBusy) : done s = false := by
  simp only [done, hb]; decide

theorem done_eq_false_of_idle (hi : s.status = statusIdle) : done s = false := by
  simp only [done, hi]; decide

/-- With no run in flight ENGINE's turn does nothing (60_exceptions.md R198). -/
theorem engineTurn_of_not_busy (hb : s.status ≠ statusBusy) : engineTurn s = .next s := if_neg hb

theorem State.setMoves_self {ms : List Move} (hm : s.moves = ms) : s.setMoves ms = s := by
  subst hm
  rfl

/-- A poll that reads DONE = 0 is a turn of ENGINE. -/
theorem step_wait_of_not_done (hm : s.moves = .wait :: rest) (hd : done s = false) :
    step s = engineTurn s := by
  have hstep : step s = waitTurn (s.setMoves (.wait :: rest)) rest := step_cons hm
  rw [hstep, State.setMoves_self hm, waitTurn, hd, if_neg Bool.false_ne_true]

/-- A poll that reads DONE = 1 ends the loop and closes every window. -/
theorem step_wait_of_done (hm : s.moves = .wait :: rest) (hs : s.status = statusDone) :
    step s = .next { s with moves := rest, reads := 2 :: s.reads, unread := [] } := by
  have hstep : step s = waitTurn (s.setMoves (.wait :: rest)) rest := step_cons hm
  have hd := statusDone_done hs
  have hd' : done (s.setMoves rest) = true := hd
  have hv : s.status.toNat = 2 := congrArg BitVec.toNat hs
  rw [hstep, State.setMoves_self hm, waitTurn, if_pos hd, readRegister_status_eq, hd', if_pos rfl,
    State.setMoves_status, hv]
  rfl

end Sys2Proof.Machine
end

section
open Sys2Proof Sys2Proof.Machine

/-- Settles O1, by the round trip of each command. -/
theorem encodedCommandDecodes : Obligations.EncodedCommandDecodes := decode_encode

/-- Settles O2: the encoder puts together the fields the decoder took apart. -/
theorem decodedCtrlIsItsEncoding : Obligations.DecodedCtrlIsItsEncoding := fun _ _ => encode_of_decode

/-- Settles O3: the decoder and START look at the reserved bits alone, and 192 values have them set. -/
theorem reservedCtrlBitsNameNoCommand : Obligations.ReservedCtrlBitsNameNoCommand := by
  refine ⟨fun c => decode_eq_error, length_filter_rejected, fun s hw hh hc hb hr => ?_⟩
  rw [writeRegister_start_one, hb, if_neg Bool.false_ne_true]
  exact start_of_reserved hw hh hc hr

/-- Settles O4: each word is evaluated. -/
theorem writtenOutCtrlWordsDecode : Obligations.WrittenOutCtrlWordsDecode :=
  ⟨rfl, rfl, rfl, rfl, rfl, rfl, rfl, rfl⟩

/-- Settles O52, one conjunct per register and kind of access. -/
theorem registerNumbersAndWidths : Obligations.RegisterNumbersAndWidths := by
  intro s rest n v
  constructor
  · intro hm
    rw [step_wr hm]
    refine ⟨?_, ?_, ?_, ?_, ?_, fun hn => writeRegister_of_five_le hn⟩
    · rintro (rfl | rfl) hv
      · exact writeRegister_width_of_le hv
      · exact writeRegister_height_of_le hv
    · rintro rfl hv
      exact writeRegister_ctrl_of_le hv
    · rintro rfl hv
      exact writeRegister_start_of_le hv
    · rintro rfl hv
      exact writeRegister_status_of_le hv
    · rintro rfl hv
      exact writeRegister_status_of_lt hv
  · intro hm
    rw [step_rd hm]
    refine ⟨?_, fun hn => readRegister_of_five_le hn⟩
    rintro rfl
    exact readRegister_start _

/-- Settles O44. During the run the first poll is the turn of ENGINE that completes it, and the second poll
reads DONE. -/
theorem waitEndsAfterTheRun : Obligations.WaitEndsAfterTheRun := by
  intro s rest hm
  refine ⟨fun h hb => ?_, step_wait_of_done hm, fun hi => ?_⟩
  · obtain ⟨i, hi⟩ := h.exists_decode hb
    have hrun : step s = .next (afterRun i s) :=
      (step_wait_of_not_done hm (done_eq_false_of_busy hb)).trans (h.engineTurn_eq hb hi)
    have hread := step_wait_of_done (s := afterRun i s) hm rfl
    exact ⟨_, _, hrun, hread, rfl, rfl, rfl, rfl, rfl, rfl⟩
  · have hidle : s.status ≠ statusBusy := fun hb => absurd (hi.symm.trans hb) (by decide)
    exact (step_wait_of_not_done hm (done_eq_false_of_idle hi)).trans (engineTurn_of_not_busy hidle)

/-- Settles O5: the four writes latch the command, and ENGINE's turn decodes it back. -/
theorem decodePseudoInstructionRunsItsCommand : Obligations.DecodePseudoInstructionRunsItsCommand := by
  intro i w h s hb hm hw hh hwfit hhfit hin hout hwf hd
  have hr := startRefusal_prepareDecode [.engine] hw hh hin hout hwf hd
  refine ⟨_, run_decodeMoves hm hb hwfit hhfit hr, rfl, rfl, rfl, rfl, rfl, ?_⟩
  exact (step_engine rfl).trans (engineTurn_of_decode rfl (decode_encode i))

end

section
/-! The colour decoder as a Bayer tiling: its period, and the pattern seen from any position
(40_pixel_addressing.md R87, R88, R93). -/

namespace Sys2Proof

/-- The pattern with the two columns of its tile exchanged (40_pixel_addressing.md R85). -/
def Pattern.swapColumns : Pattern → Pattern
  | .rggb => .grbg
  | .gbrg => .bggr
  | .grbg => .rggb
  | .bggr => .gbrg

/-- The pattern with the two rows of its tile exchanged (40_pixel_addressing.md R85). -/
def Pattern.swapRows : Pattern → Pattern
  | .rggb => .gbrg
  | .gbrg => .rggb
  | .grbg => .bggr
  | .bggr => .grbg

end Sys2Proof

namespace Sys2Proof.Machine

theorem tile_swapColumns (p : Pattern) (r c : Bool) : tile p.swapColumns r c = tile p r !c := by
  revert r c
  cases p <;> decide

theorem tile_swapRows (p : Pattern) (r c : Bool) : tile p.swapRows r c = tile p (!r) c := by
  revert r c
  cases p <;> decide

theorem decide_one_add_emod_two (z : Int) : decide ((1 + z) % 2 = 1) = !decide (z % 2 = 1) := by
  rw [← decide_not, decide_eq_decide]
  omega

theorem color_one_add_left (p : Pattern) (x y : Int) : color p (1 + x) y = color p.swapColumns x y := by
  unfold color
  rw [decide_one_add_emod_two, tile_swapColumns]

theorem color_one_add_right (p : Pattern) (x y : Int) : color p x (1 + y) = color p.swapRows x y := by
  unfold color
  rw [decide_one_add_emod_two, tile_swapRows]

/-- The decoder reads each coordinate modulo 2 (40_pixel_addressing.md R93). -/
theorem color_add_two_mul (p : Pattern) (x y a b : Int) : color p (x + 2 * a) (y + 2 * b) = color p x y := by
  unfold color
  rw [Int.add_mul_emod_self_left, Int.add_mul_emod_self_left]

/-- Seen from column `x`, a pattern is itself or its mirror image, by the parity of `x`. -/
theorem exists_color_add_left (p : Pattern) (x : Int) : ∃ q, ∀ a b, color p (x + a) b = color q a b := by
  have period (q : Pattern) (k a b : Int) : color q (2 * k + a) b = color q a b := by
    simpa [add_comm] using color_add_two_mul q a b k 0
  obtain ⟨k, rfl | rfl⟩ := Int.even_or_odd' x
  · exact ⟨p, period p k⟩
  · exact ⟨p.swapColumns, fun a b => by rw [add_assoc, period, color_one_add_left]⟩

/-- Seen from row `y`, a pattern is itself or its mirror image, by the parity of `y`. -/
theorem exists_color_add_right (p : Pattern) (y : Int) : ∃ q, ∀ a b, color p a (y + b) = color q a b := by
  have period (q : Pattern) (k a b : Int) : color q a (2 * k + b) = color q a b := by
    simpa [add_comm] using color_add_two_mul q a b 0 k
  obtain ⟨k, rfl | rfl⟩ := Int.even_or_odd' y
  · exact ⟨p, period p k⟩
  · exact ⟨p.swapRows, fun a b => by rw [add_assoc, period, color_one_add_right]⟩

/-- Seen from any position, a pattern is one of the four patterns seen from the origin. So what is to hold at
every position of every pattern need only be checked at `(0, 0)`. -/
theorem exists_color_eq_color_sub (p : Pattern) (x y : Int) :
    ∃ q, ∀ u v, color p u v = color q (u - x) (v - y) := by
  obtain ⟨p', hx⟩ := exists_color_add_left p x
  obtain ⟨q, hy⟩ := exists_color_add_right p' y
  refine ⟨q, fun u v => ?_⟩
  rw [← hy, ← hx, add_sub_cancel, add_sub_cancel]

end Sys2Proof.Machine
end

section
open Sys2Proof Sys2Proof.Machine

/-- Settles O7: both coordinates keep their parity. -/
theorem colourHasPeriodTwo : Obligations.ColourHasPeriodTwo := color_add_two_mul

/-- Settles O8: seen from `(x, y)` the pattern is one of the four seen from `(0, 0)`, and the neighbourhood of
`(0, 0)` is inspected in each of the four tables. -/
theorem bayerNeighbourhoods : Obligations.BayerNeighbourhoods := by
  intro p x y
  obtain ⟨q, hq⟩ := exists_color_eq_color_sub p x y
  simp only [hq, sub_self, add_sub_cancel_left, sub_sub_cancel_left]
  cases q <;> decide

/-- Settles O6, table by table. -/
theorem patternTablesGiveTileColours : Obligations.PatternTablesGiveTileColours := by
  intro p
  cases p <;> rfl

end

section
/-! START's five checks, in the words of their rule (41_dispatcher.md R101). -/

open Sys2Proof

namespace Sys2Proof.Machine

variable {s : State}

/-- The depth check of START: some sample of the mosaic is above 255 (20_memory.md R41). -/
theorem Memory.exceedsByte_eq_true {m : Memory} (hm : m.wf) (n : Nat) :
    m.exceedsByte n = true ↔ ∃ i < n, 255 < (m.read i).toNat := by
  rw [← Bool.not_eq_false, Memory.exceedsByte_eq_false hm]
  push Not
  rfl

theorem Depth.ofCode_eq_d8 {d : BitVec 1} : Depth.ofCode d = .d8 ↔ d = 0 := by
  simp [Depth.ofCode]

/-- The checks of START in their order, each said of the registers and of the cells of IN. -/
theorem startRefusal_eq (hwf : s.inp.wf) :
    startRefusal s =
      if ¬ (s.widthWritten = true ∧ s.heightWritten = true ∧ s.ctrlWritten = true) then
        some .unwrittenRegister
      else if s.ctrl.extractLsb' 6 2 ≠ 0 then some .reservedCtrlBits
      else if s.width < 2 ∨ s.height < 2 then some .dimensionTooSmall
      else if s.params.inLen < s.width * s.height ∨
          s.params.outLen < nOut { ctrl := s.ctrl, width := s.width, height := s.height } then
        some .bufferTooSmall
      else if ctrlDepth16 s.ctrl = 0 ∧ ∃ a < s.width * s.height, 255 < (s.inp.read a).toNat then
        some .depthMismatch
      else none := by
  unfold startRefusal
  refine if_congr ?_ rfl (if_congr ?_ rfl (if_congr ?_ rfl (if_congr ?_ rfl (if_congr ?_ rfl rfl))))
  · rw [Bool.not_eq_true', ← Bool.not_eq_true, Bool.and_eq_true, Bool.and_eq_true, and_assoc]
  · rw [Bool.not_eq_true', Command.ctrlLegal, decide_eq_false_iff_not]
    rfl
  · rw [Bool.not_eq_true', Bool.and_eq_false_iff, Command.widthLegal, Command.heightLegal,
      decide_eq_false_iff_not, decide_eq_false_iff_not, not_le, not_le]
    rfl
  · rw [Bool.or_eq_true, decide_eq_true_eq, decide_eq_true_eq]
    rfl
  · rw [Bool.and_eq_true, decide_eq_true_eq, commandDepth, Depth.ofCode_eq_d8,
      Memory.exceedsByte_eq_true hwf]
    rfl

theorem start_of_some {r : Refusal} (h : startRefusal s = some r) : start s = .refused r := by
  unfold start
  rw [h]

/-- `WR START, 1` with BUSY = 0 is START (10_state.md R28). -/
theorem step_start {rest : List Move} (hm : s.moves = .wr 3 1 :: rest) (hb : busy s = false) :
    step s = start (s.setMoves rest) := by
  rw [step_wr hm, writeRegister_start_one, busy_setMoves, hb, if_neg Bool.false_ne_true]

end Sys2Proof.Machine
end

section
open Sys2Proof Sys2Proof.Machine

/-- Settles O45: each conjunct takes one branch of START's checks. -/
theorem startChecksThenLatches : Obligations.StartChecksThenLatches := by
  intro s rest hb hm hwf k written reserved small short wide
  have hchecks : startRefusal (s.setMoves rest) = _ := startRefusal_eq (s := s) hwf
  rw [step_start hm hb]
  refine ⟨fun hw => ?_, fun hw hr => ?_, fun hw hr hsmall => ?_, fun hw hr hsmall hshort => ?_,
    fun hw hr hsmall hshort hwide => ?_, fun hw hr hsmall hshort hwide => ?_⟩
  · rw [if_pos hw] at hchecks
    exact start_of_some hchecks
  · rw [if_neg (not_not.2 hw), if_pos hr] at hchecks
    exact start_of_some hchecks
  · rw [if_neg (not_not.2 hw), if_neg hr, if_pos hsmall] at hchecks
    exact start_of_some hchecks
  · rw [if_neg (not_not.2 hw), if_neg hr, if_neg hsmall, if_pos hshort] at hchecks
    exact start_of_some hchecks
  · rw [if_neg (not_not.2 hw), if_neg hr, if_neg hsmall, if_neg hshort, if_pos hwide] at hchecks
    exact start_of_some hchecks
  · rw [if_neg (not_not.2 hw), if_neg hr, if_neg hsmall, if_neg hshort, if_neg hwide] at hchecks
    exact start_of_none hchecks

/-- Settles O32: the invariant makes the run in flight fit, whether ENGINE's turn is listed or not. -/
theorem runStepIsAlwaysEnabled : Obligations.RunStepIsAlwaysEnabled := by
  intro s h hb hm
  obtain ⟨i, hi⟩ := h.exists_decode hb
  rcases hm with hm | hm
  · exact ⟨_, (step_nil hm).trans (h.engineTurn_eq hb hi), rfl⟩
  · obtain ⟨rest, hm⟩ := List.head?_eq_some_iff.1 hm
    exact ⟨_, (step_engine hm).trans ((h.setMoves rest).engineTurn_eq hb hi), rfl⟩

/-- Settles O35: each of the three turns is ENGINE's, which runs the command CMD_L decodes to. -/
theorem stepRunsTheDecodedCommand : Obligations.StepRunsTheDecodedCommand := fun s _ hb hi =>
  ⟨fun hm => (step_nil hm).trans (engineTurn_of_decode hb hi),
    fun rest hm => (step_engine hm).trans (engineTurn_of_decode (s := s.setMoves rest) hb hi),
    fun _ hm => (step_wait_of_not_done hm (done_eq_false_of_busy hb)).trans (engineTurn_of_decode hb hi)⟩

end

section
/-! What the methods read of IN: their sample reads alone (20_memory.md R46), so views that read alike give
every method one value (41_dispatcher.md R106). -/

namespace Sys2Proof.Machine

/-! ### NEAREST and DOWNSAMPLE, which name cells, in terms of sample reads -/

/-- The position NEAREST chooses depends on no sample, and is read as a sample. -/
theorem exists_nearest_eq_sample {v : View} (hw : 2 ≤ v.width) (hh : 2 ≤ v.height) (c : Chan) (x y : Int) :
    ∃ q, nearestOf x y (v.candidates c) = some q ∧ nearest v c x y = v.sample q.1 q.2 := by
  obtain ⟨q, hq, hn⟩ := exists_nearestOf (View.candidates_ne_nil hw hh c) x y
  obtain ⟨hx, hy, -⟩ := View.mem_candidates.1 hq
  exact ⟨q, hn, by rw [View.sample_of_lt hx hy, nearest, hn]⟩

/-- In range DOWNSAMPLE is the mean of sample reads (44_downsample.md R140). -/
theorem downsample_eq_mean_sample {v : View} (c : Chan) {i j : Nat} (hi : i < v.width / 2)
    (hj : j < v.height / 2) :
    downsample v c i j =
      ((tileSites v.pattern c).map fun o => v.sample (2 * i + o.1 : Nat) (2 * j + o.2 : Nat)).sum /
        ((tileSites v.pattern c).length : Int) := by
  unfold downsample
  congr 2
  refine List.map_congr_left fun o ho => ?_
  obtain ⟨hx, hy, -⟩ := tileSites_spec ho
  rw [View.sample_of_lt (by omega) (by omega)]
  exact congrArg v.cell (Int.toNat_natCast ((2 * j + o.2) * v.width + (2 * i + o.1)))

/-! ### Views that read alike -/

/-- Two views that differ in IN at most, and there in no sample read. -/
structure View.ReadsAlike (u v : View) : Prop where
  params : u.params = v.params
  pattern : u.pattern = v.pattern
  depth : u.depth = v.depth
  width : u.width = v.width
  height : u.height = v.height
  sample : u.sample = v.sample

namespace View.ReadsAlike

variable {u v : View} (h : u.ReadsAlike v)
include h

theorem cx_eq : u.cx = v.cx := by
  funext x
  simp only [View.cx, h.width]

theorem cy_eq : u.cy = v.cy := by
  funext y
  simp only [View.cy, h.height]

theorem count_eq : u.count = v.count := by
  funext x y c
  simp only [View.count, h.pattern]

theorem nsum_eq : u.nsum = v.nsum := by
  funext x y c
  simp only [View.nsum, h.pattern, h.sample]

theorem bil_eq : u.bil = v.bil := by
  funext x y c
  simp only [View.bil, h.nsum_eq, h.count_eq]

theorem candidates_eq : u.candidates = v.candidates := by
  funext c
  simp only [View.candidates, h.width, h.height, h.pattern]

theorem nearest_eq (hw : 2 ≤ v.width) (hh : 2 ≤ v.height) (c : Chan) (x y : Int) :
    nearest u c x y = nearest v c x y := by
  obtain ⟨p, hp, hu⟩ := exists_nearest_eq_sample (hw.trans_eq h.width.symm) (hh.trans_eq h.height.symm) c x y
  obtain ⟨q, hq, hv⟩ := exists_nearest_eq_sample hw hh c x y
  obtain rfl : p = q := Option.some_inj.1 (hp.symm.trans (h.candidates_eq ▸ hq))
  rw [hu, hv, h.sample]

theorem bilinear_eq : bilinear u = bilinear v := by
  funext c x y
  simp only [bilinear, h.pattern, h.sample, h.bil_eq]

theorem simple_eq : simple u = simple v := h.bilinear_eq

theorem hqlinear_eq : hqlinear u = hqlinear v := by
  funext c x y
  simp only [hqlinear, View.laplacian, h.params, h.pattern, h.depth, h.sample, h.count_eq, h.nsum_eq]

theorem downsample_eq (c : Chan) {i j : Nat} (hi : i < v.width / 2) (hj : j < v.height / 2) :
    downsample u c i j = downsample v c i j := by
  rw [downsample_eq_mean_sample c hi hj, downsample_eq_mean_sample c (by rwa [h.width]) (by rwa [h.height]),
    h.pattern, h.sample]

theorem edgesense_eq : edgesense u = edgesense v := by
  funext c x y
  simp only [edgesense, View.edgeGreen, h.params, h.pattern, h.depth, h.sample, h.bil_eq]

theorem grad_eq : u.grad = v.grad := by
  funext x y d
  simp only [View.grad, h.sample]

theorem gradMin_eq : u.gradMin = v.gradMin := by
  funext x y
  simp only [View.gradMin, h.grad_eq]

theorem gradMax_eq : u.gradMax = v.gradMax := by
  funext x y
  simp only [View.gradMax, h.grad_eq]

theorem validDirection_eq : u.validDirection = v.validDirection := by
  funext x y d
  rw [View.validDirection, View.validDirection, h.params, h.grad_eq, h.gradMin_eq, h.gradMax_eq]

theorem validDirections_eq : u.validDirections = v.validDirections := by
  funext x y
  simp only [View.validDirections, h.validDirection_eq]

theorem estimate_eq : u.estimate = v.estimate := by
  funext c x y d
  simp only [View.estimate, h.bil_eq]

theorem vng_eq : vng u = vng v := by
  funext c x y
  simp only [vng, h.pattern, h.sample, h.validDirections_eq, h.estimate_eq]

theorem greenPlane_eq : u.greenPlane = v.greenPlane := by
  funext k x y
  simp only [View.greenPlane, h.pattern, h.depth, h.sample]

theorem candidate_eq : u.candidate = v.candidate := by
  funext k c x y
  simp only [View.candidate, View.candColour, View.greenDiff, h.pattern, h.depth, h.sample, h.greenPlane_eq,
    h.cx_eq, h.cy_eq]

theorem homogeneity_eq : u.homogeneity = v.homogeneity := by
  funext k x y
  simp only [View.homogeneity, View.projected, h.params, h.depth, h.candidate_eq, h.cx_eq, h.cy_eq]

theorem ahd_eq : ahd u = ahd v := by
  funext c x y
  simp only [ahd, h.homogeneity_eq, h.candidate_eq]

/-- Every method gives views that read alike one value, at every output position. -/
theorem methodValue_eq (m : Method) (hw : 2 ≤ v.width) (hh : 2 ≤ v.height) (c : Chan) {x y : Nat}
    (hx : x < outCols (geometryOf m) { ctrl := 0, width := v.width, height := v.height })
    (hy : y < outRows (geometryOf m) { ctrl := 0, width := v.width, height := v.height }) :
    methodValue m u c x y = methodValue m v c x y := by
  cases m with
  | nearest => exact h.nearest_eq hw hh c x y
  | simple => exact congr_fun₃ h.simple_eq c x y
  | bilinear => exact congr_fun₃ h.bilinear_eq c x y
  | hqlinear => exact congr_fun₃ h.hqlinear_eq c x y
  | downsample => exact h.downsample_eq c hx hy
  | edgesense => exact congr_fun₃ h.edgesense_eq c x y
  | vng => exact congr_fun₃ h.vng_eq c x y
  | ahd => exact congr_fun₃ h.ahd_eq c x y

end View.ReadsAlike

/-! ### The run -/

variable {i : Instr} {s u : State}

theorem outCols_congr (g : Geometry) {k l : Command} (h : k.width = l.width) : outCols g k = outCols g l := by
  cases g <;> simp only [outCols, h]

theorem outRows_congr (g : Geometry) {k l : Command} (h : k.height = l.height) :
    outRows g k = outRows g l := by
  cases g <;> simp only [outRows, h]

/-- After a ready run every cell of the image holds the method's value (41_dispatcher.md R103). -/
theorem RunReady.read_afterRun (h : RunReady i.geometry i.depth s) {x y : Nat} (c : Chan)
    (hx : x < outCols i.geometry s.cmd) (hy : y < outRows i.geometry s.cmd) :
    (((afterRun i s).out.read (outIndex (outCols i.geometry s.cmd) x y c)).toNat : Int) =
      methodValue i.method (viewOf s i.depth i.pattern) c x y :=
  h.toRunFits.read_afterRun h.depthOk h.inClean hx hy (by simp [h.outClean])

/-- Mosaics that agree below `N_in`, seen under one command and platform, read alike. -/
theorem RunFits.readsAlike {g : Geometry} (h : RunFits g s) (d : Depth) (p : Pattern)
    (hparams : s.params = u.params) (hwidth : s.cmd.width = u.cmd.width)
    (hheight : s.cmd.height = u.cmd.height) (hinp : ∀ a < nIn s.cmd, s.inp.read a = u.inp.read a) :
    (viewOf s d p).ReadsAlike (viewOf u d p) where
  params := hparams
  pattern := rfl
  depth := rfl
  width := hwidth
  height := hheight
  sample := by
    funext x y
    exact View.sample_congr (v := viewOf s d p) (w := viewOf u d p)
      (one_le_two.trans h.widthOk) (one_le_two.trans h.heightOk) hwidth.symm hheight.symm
      (fun a ha => congrArg (fun w : Sample => (w.toNat : Int)) (hinp a ha)) x y

end Sys2Proof.Machine
end

section
open Sys2Proof Sys2Proof.Machine

/-- Settles O31: the two mosaics read alike, so each cell of the image has one method value. -/
theorem runIsDeterminedByMosaicAndCommand : Obligations.RunIsDeterminedByMosaicAndCommand := by
  intro i s u hs hu hparams hwidth hheight hinp
  refine ⟨afterRun i s, afterRun i u, exec_of_ready hs, exec_of_ready hu, fun a ha => ?_⟩
  obtain ⟨x, y, c, hx, hy, rfl⟩ := exists_outIndex ha
  have hcols := outCols_congr i.geometry hwidth
  have hxu := hx.trans_eq hcols
  have hyu := hy.trans_eq (outRows_congr i.geometry hheight)
  have hvalue := (hs.readsAlike i.depth i.pattern hparams hwidth hheight hinp).methodValue_eq i.method
    hu.widthOk hu.heightOk c hxu hyu
  have hread := hu.read_afterRun c hxu hyu
  rw [← hcols] at hread
  exact BitVec.eq_of_toNat_eq (Int.ofNat.inj
    ((hs.read_afterRun c hx hy).trans (hvalue.trans hread.symm)))

end

section
/-! A uniform mosaic, in every method (41_dispatcher.md R108). -/

namespace Sys2Proof.Machine

/-- The mean of a nonempty list of one number is that number. -/
theorem mean_eq_of_forall_eq {l : List Int} {w : Int} (hne : l ≠ []) (h : ∀ a ∈ l, a = w) :
    l.sum / (l.length : Int) = w := by
  rw [List.sum_eq_card_nsmul l w h, nsmul_eq_mul]
  exact Int.mul_ediv_cancel_left w (by exact_mod_cast (List.length_pos_iff.2 hne).ne')

/-- The constraint on HQLINEAR's divisor (00_scope.md R9). -/
theorem Params.ok_hqlinear {p : Params} (h : p.ok = true) : 1 ≤ p.hqDen := by
  simp only [Params.ok, Bool.and_eq_true, decide_eq_true_eq] at h
  obtain ⟨⟨⟨-, hden⟩, -⟩, -⟩ := h
  exact hden

/-- Every cell below `N_in` reads `w`. -/
def View.Uniform (v : View) (w : Int) : Prop := ∀ i < v.width * v.height, v.cell i = w

section Uniform
variable {v : View} {w : Int} (hu : v.Uniform w) (h : v.Legal) (c : Chan) (x y : Int)
include hu h

theorem View.Uniform.sample_eq : v.sample x y = w :=
  hu _ (View.sampleIndex_lt (by have := h.widthOk; omega) (by have := h.heightOk; omega) x y)

theorem View.Uniform.clamp_eq : clamp v.depth w = w := by
  obtain ⟨h0, h1⟩ := h.sample_mem 0 0
  rw [hu.sample_eq h] at h0 h1
  exact clamp_of_mem h0 h1

theorem View.Uniform.bil_eq : v.bil x y c = w := by
  have hmean := mean_eq_of_forall_eq
    (l := (neighbours v.pattern x y c).map fun o => v.sample (x + o.1) (y + o.2))
    (by simpa using neighbours_ne_nil v.pattern x y c)
    (List.forall_mem_map.2 fun o _ => hu.sample_eq h _ _)
  rwa [List.length_map] at hmean

theorem View.Uniform.nearest_eq : nearest v c x y = w := by
  obtain ⟨q, -, hq⟩ := exists_nearest_eq_sample h.widthOk h.heightOk c x y
  rw [hq, hu.sample_eq h]

theorem View.Uniform.bilinear_eq : bilinear v c x y = w := by
  simp only [bilinear, hu.sample_eq h, hu.bil_eq h, ite_self]

theorem View.Uniform.simple_eq : simple v c x y = w := hu.bilinear_eq h c x y

theorem View.Uniform.nsum_eq : v.nsum x y c = v.count x y c * w := by
  simp [View.nsum, View.count, hu.sample_eq h]

theorem View.Uniform.hqlinear_eq : hqlinear v c x y = w := by
  have hden : (4 * v.params.hqDen : Int) ≠ 0 := by
    have := Params.ok_hqlinear h.paramsOk
    omega
  have hlap : v.laplacian x y = 0 := by
    simp only [View.laplacian, hu.sample_eq h]
    ring
  have hnum : 4 / v.count x y c * v.params.hqDen * v.nsum x y c + v.params.hqNum * v.laplacian x y =
      4 * v.params.hqDen * w := by
    rw [hlap, hu.nsum_eq h]
    rcases v.count_cases x y c with hk | hk | hk <;> rw [hk] <;> ring
  simp only [hqlinear, hu.sample_eq h, hnum, tdiv, Int.mul_tdiv_cancel_left w hden, hu.clamp_eq h, ite_self]

theorem View.Uniform.downsample_eq {i j : Nat} (hi : i < v.width / 2) (hj : j < v.height / 2) :
    downsample v c i j = w := by
  have hmean := mean_eq_of_forall_eq
    (l := (tileSites v.pattern c).map fun o => v.sample (2 * i + o.1 : Nat) (2 * j + o.2 : Nat))
    (by simpa using tileSites_ne_nil v.pattern c) (List.forall_mem_map.2 fun o _ => hu.sample_eq h _ _)
  rwa [List.length_map, ← downsample_eq_mean_sample c hi hj] at hmean

theorem View.Uniform.edgeGreen_eq : v.edgeGreen x y = w := by
  have hfour : (w + w + w + w) / 4 = w := by omega
  have htwo : (w + w) / 2 = w := by omega
  simp only [View.edgeGreen, hu.sample_eq h, hfour, htwo, ite_self]

theorem View.Uniform.edgesense_eq : edgesense v c x y = w := by
  simp only [edgesense, hu.sample_eq h, hu.edgeGreen_eq h, hu.bil_eq h, ite_self]

theorem View.Uniform.vng_eq : vng v c x y = w := by
  have hmean := mean_eq_of_forall_eq (l := (v.validDirections x y).map (v.estimate c x y))
    (by simpa using View.validDirections_ne_nil h.paramsOk x y)
    (List.forall_mem_map.2 fun d _ => hu.bil_eq h c _ _)
  rw [List.length_map] at hmean
  simp only [vng, hu.sample_eq h, hmean, ite_self]

theorem View.Uniform.greenPlane_eq (k : Axis) : v.greenPlane k x y = w := by
  have hgreen : tdiv (2 * (w + w) + 2 * w - w - w) 4 = w := by
    rw [show 2 * (w + w) + 2 * w - w - w = 4 * w by ring]
    exact Int.mul_tdiv_cancel_left w (by decide)
  cases k <;> simp only [View.greenPlane, hu.sample_eq h, hgreen, hu.clamp_eq h, ite_self]

theorem View.Uniform.candidate_eq (k : Axis) : v.candidate k c x y = w := by
  have hdiff (a b : Int) : v.greenDiff k a b = 0 := by
    simp only [View.greenDiff, hu.sample_eq h, hu.greenPlane_eq h, sub_self]
  have hcolour (e : Chan) : v.candColour k e x y = w := by
    simp [View.candColour, hu.sample_eq h, hu.greenPlane_eq h, hdiff, tdiv, hu.clamp_eq h]
  cases c with
  | g => exact hu.greenPlane_eq h x y k
  | r => exact hcolour .r
  | b => exact hcolour .b

theorem View.Uniform.ahd_eq : ahd v c x y = w := by
  simp only [ahd, hu.candidate_eq h, ite_self]

/-- Every method gives a uniform mosaic its value back, at every output position. -/
theorem View.Uniform.methodValue_eq (m : Method) {x y : Nat}
    (hx : x < outCols (geometryOf m) { ctrl := 0, width := v.width, height := v.height })
    (hy : y < outRows (geometryOf m) { ctrl := 0, width := v.width, height := v.height }) :
    methodValue m v c x y = w := by
  cases m with
  | nearest => exact hu.nearest_eq h c x y
  | simple => exact hu.simple_eq h c x y
  | bilinear => exact hu.bilinear_eq h c x y
  | hqlinear => exact hu.hqlinear_eq h c x y
  | downsample => exact hu.downsample_eq h c hx hy
  | edgesense => exact hu.edgesense_eq h c x y
  | vng => exact hu.vng_eq h c x y
  | ahd => exact hu.ahd_eq h c x y

end Uniform
end Sys2Proof.Machine
end

section
open Sys2Proof Sys2Proof.Machine

/-- Settles O21: the view of the run is uniform, so every cell of the image holds `w`. -/
theorem uniformFieldIsPreserved : Obligations.UniformFieldIsPreserved := by
  intro i s w h hw
  refine ⟨afterRun i s, exec_of_ready h, rfl, fun a ha => ?_⟩
  obtain ⟨x, y, c, hx, hy, rfl⟩ := exists_outIndex ha
  have hu : (viewOf s i.depth i.pattern).Uniform w.toNat := fun a ha =>
    congrArg (fun w : Sample => (w.toNat : Int)) (hw a ha)
  exact BitVec.eq_of_toNat_eq (Int.ofNat.inj
    ((h.read_afterRun c hx hy).trans (hu.methodValue_eq (h.legal i.pattern) c i.method hx hy)))

end

section
/-! What a ready run comes to: `RunsTo` from the method's values alone (41_dispatcher.md R102, R103). -/

namespace Sys2Proof.Machine

variable {i : Instr} {s : State}

/-- A ready run does everything `RunsTo` says, with any relation the method's values meet. -/
theorem RunReady.runsTo {R : View → Chan → Nat → Nat → Int → Prop} (h : RunReady i.geometry i.depth s)
    (hR : ∀ (x y : Nat) c, x < outCols i.geometry s.cmd → y < outRows i.geometry s.cmd →
      R (viewOf s i.depth i.pattern) c x y (methodValue i.method (viewOf s i.depth i.pattern) c x y)) :
    RunsTo i s R := by
  refine ⟨afterRun i s, exec_of_ready h, ?_, fun x y c hx hy => ?_, fun a ha => read_runOut_above h.outWf ha⟩
  · simp [afterRun, State.complete, runCtr, h.spoilt, h.inClean, h.outClean]
  · rw [h.read_afterRun c hx hy]
    exact hR x y c hx hy

end Sys2Proof.Machine
end

section
/-! The canonical neighbours (40_pixel_addressing.md R90) and the bilinear mean over them (R92). -/

namespace Sys2Proof.Machine

/-- The bilinear mean of a missing channel, set by set (42_nearest_simple_bilinear.md R114). -/
theorem View.bil_of_ne {v : View} {c : Chan} {x y : Int} (hc : c ≠ color v.pattern x y) :
    v.bil x y c =
      if color v.pattern x y = .g then
        if c = hcol v.pattern x y then (v.sample (x - 1) y + v.sample (x + 1) y) / 2
        else (v.sample x (y - 1) + v.sample x (y + 1)) / 2
      else if c = .g then
        (v.sample x (y - 1) + v.sample (x - 1) y + v.sample (x + 1) y + v.sample x (y + 1)) / 4
      else
        (v.sample (x - 1) (y - 1) + v.sample (x + 1) (y - 1) + v.sample (x - 1) (y + 1) +
          v.sample (x + 1) (y + 1)) / 4 := by
  simp only [View.bil, View.nsum, View.count, neighbours, if_neg hc]
  split_ifs <;> simp [axialOffsets, diagonalOffsets, sub_eq_add_neg, add_assoc]

/-- Seen from any position the pattern, and with it every set of neighbours, is that of one of the four patterns
at the origin. -/
theorem exists_neighbours_eq_at_origin (p : Pattern) (x y : Int) :
    ∃ q, (∀ a b, color p (x + a) (y + b) = color q a b) ∧ ∀ c, neighbours p x y c = neighbours q 0 0 c := by
  obtain ⟨q, hq⟩ := exists_color_eq_color_sub p x y
  refine ⟨q, fun a b => ?_, fun c => ?_⟩
  · rw [hq, add_sub_cancel_left, add_sub_cancel_left]
  · simp [neighbours, hcol, hq]

/-- A neighbour for channel `c` has colour `c` (40_pixel_addressing.md R90). -/
theorem color_of_mem_neighbours {p : Pattern} {x y : Int} {c : Chan} {o : Int × Int}
    (ho : o ∈ neighbours p x y c) : color p (x + o.1) (y + o.2) = c := by
  obtain ⟨q, hseen, hset⟩ := exists_neighbours_eq_at_origin p x y
  rw [hseen]
  rw [hset] at ho
  revert o
  cases q <;> cases c <;> decide

/-- Whichever side of the site is chosen per axis, some neighbour lies on no other. -/
theorem exists_mem_neighbours_toward (p : Pattern) (x y : Int) (c : Chan) {dx dy : Int} (hx : dx = 1 ∨ dx = -1)
    (hy : dy = 1 ∨ dy = -1) :
    ∃ o ∈ neighbours p x y c, (o.1 = 0 ∨ o.1 = dx) ∧ (o.2 = 0 ∨ o.2 = dy) := by
  unfold neighbours axialOffsets diagonalOffsets
  rcases hx with rfl | rfl <;> rcases hy with rfl | rfl <;> split_ifs <;> decide

end Sys2Proof.Machine
end

section
/-! NEAREST as the minimum of one key (42_nearest_simple_bilinear.md R110), and its closed form (R111). -/

namespace Sys2Proof.Machine

/-- The triple `(dist2, row, column)` of an offset from the site, in lexicographic order
(42_nearest_simple_bilinear.md R110). -/
def offsetKey (o : Int × Int) : Int ×ₗ Int ×ₗ Int := toLex (o.1 ^ 2 + o.2 ^ 2, toLex (o.2, o.1))

/-- The offset of a position from the site `(x, y)`. -/
def offsetFrom (x y : Int) (q : Nat × Nat) : Int × Int := (q.1 - x, q.2 - y)

variable {v : View} {c : Chan} {x y : Int} {q r : Nat × Nat} {o o' : Int × Int}

theorem offsetKey_lt_iff : offsetKey o < offsetKey o' ↔
    o.1 ^ 2 + o.2 ^ 2 < o'.1 ^ 2 + o'.2 ^ 2 ∨
      (o.1 ^ 2 + o.2 ^ 2 = o'.1 ^ 2 + o'.2 ^ 2 ∧ (o.2 < o'.2 ∨ (o.2 = o'.2 ∧ o.1 < o'.1))) := by
  simp only [offsetKey, Prod.Lex.toLex_lt_toLex]

theorem offsetKey_le_iff : offsetKey o ≤ offsetKey o' ↔
    o.1 ^ 2 + o.2 ^ 2 < o'.1 ^ 2 + o'.2 ^ 2 ∨
      (o.1 ^ 2 + o.2 ^ 2 = o'.1 ^ 2 + o'.2 ^ 2 ∧ (o.2 < o'.2 ∨ (o.2 = o'.2 ∧ o.1 ≤ o'.1))) := by
  simp only [offsetKey, Prod.Lex.toLex_le_toLex]

theorem offsetKey_injective : Function.Injective offsetKey := by
  intro o o' h
  exact Prod.swap_injective (Prod.mk.inj h).2

theorem offsetFrom_injective (x y : Int) : Function.Injective (offsetFrom x y) := by
  rintro ⟨a, b⟩ ⟨a', b'⟩ h
  simpa [offsetFrom] using h

/-- The model's comparison is that of the keys. -/
theorem nearer_iff : nearer x y q r = true ↔ offsetKey (offsetFrom x y q) < offsetKey (offsetFrom x y r) := by
  simp only [nearer, Bool.or_eq_true, Bool.and_eq_true, decide_eq_true_eq]
  simp [dist2, offsetKey_lt_iff, offsetFrom]

/-- The model's search is the library's `argmin` of the key. -/
theorem nearestOf_eq_argmin (x y : Int) (l : List (Nat × Nat)) :
    nearestOf x y l = l.argmin (offsetKey ∘ offsetFrom x y) := by
  cases l with
  | nil => rfl
  | cons q t =>
    show _ = t.foldl _ (some q)
    unfold nearestOf
    induction t generalizing q with
    | nil => rfl
    | cons r t ih =>
      simp only [List.foldl_cons, nearer_iff] at ih ⊢
      rw [ih]
      congr 1
      simp only [List.argAux, Function.comp]
      split_ifs <;> rfl

/-- NEAREST copies the candidate of least key. -/
theorem nearest_eq_cell (hq : q ∈ v.candidates c)
    (hle : ∀ r ∈ v.candidates c, offsetKey (offsetFrom x y q) ≤ offsetKey (offsetFrom x y r)) :
    nearest v c x y = v.cell (q.2 * v.width + q.1) := by
  have hmin : nearestOf x y (v.candidates c) = some q := by
    rw [nearestOf_eq_argmin, List.argmin_eq_some_iff]
    refine ⟨hq, hle, fun r hr hrq => ?_⟩
    rw [(offsetKey_injective.comp (offsetFrom_injective x y)) ((hle r hr).antisymm hrq)]
  simp [nearest, hmin]

/-- A mosaic of at least 2 by 2 has a candidate of least key, which NEAREST copies. -/
theorem exists_nearest_eq_least (hw : 2 ≤ v.width) (hh : 2 ≤ v.height) (c : Chan) (x y : Int) :
    ∃ q ∈ v.candidates c, nearest v c x y = v.cell (q.2 * v.width + q.1) ∧
      ∀ r ∈ v.candidates c, offsetKey (offsetFrom x y q) ≤ offsetKey (offsetFrom x y r) := by
  obtain ⟨q, hq, hn⟩ := exists_nearestOf (View.candidates_ne_nil hw hh c) x y
  have hle : ∀ r ∈ v.candidates c, offsetKey (offsetFrom x y q) ≤ offsetKey (offsetFrom x y r) := fun r hr =>
    List.le_of_mem_argmin (f := offsetKey ∘ offsetFrom x y) hr (nearestOf_eq_argmin x y _ ▸ hn)
  exact ⟨q, hq, nearest_eq_cell hq hle, hle⟩

/-! ### The winning order -/

/-- The neighbours stand in rising order of the key (42_nearest_simple_bilinear.md R111). -/
theorem neighbours_pairwise (p : Pattern) (x y : Int) (c : Chan) :
    (neighbours p x y c).Pairwise fun o o' => offsetKey o < offsetKey o' := by
  simp only [offsetKey_lt_iff, neighbours, axialOffsets, diagonalOffsets]
  split_ifs <;> decide

/-- An offset that is not one of the nine around the site is farther than each of the nine. -/
theorem mem_directions_or_four_le (o : Int × Int) : o ∈ (0, 0) :: directions ∨ 4 ≤ o.1 ^ 2 + o.2 ^ 2 := by
  obtain ⟨a, b⟩ := o
  by_cases h : (-1 ≤ a ∧ a ≤ 1) ∧ (-1 ≤ b ∧ b ≤ 1)
  · left
    obtain ⟨⟨ha, ha'⟩, hb, hb'⟩ := h
    interval_cases a <;> interval_cases b <;> decide
  · right
    have hfar : a ≤ -2 ∨ 2 ≤ a ∨ b ≤ -2 ∨ 2 ≤ b := by omega
    rcases hfar with h | h | h | h <;> nlinarith [sq_nonneg a, sq_nonneg b]

theorem neighbours_dist_le (p : Pattern) (x y : Int) (c : Chan) :
    ∀ o ∈ neighbours p x y c, o.1 ^ 2 + o.2 ^ 2 ≤ 2 := by
  unfold neighbours axialOffsets diagonalOffsets
  split_ifs <;> decide

/-- No site of a channel is as near as the channel's neighbours but they themselves. -/
theorem mem_neighbours_or_farther (p : Pattern) (x y : Int) (o : Int × Int) :
    o ∈ neighbours p x y (color p (x + o.1) (y + o.2)) ∨
      ∀ n ∈ neighbours p x y (color p (x + o.1) (y + o.2)), n.1 ^ 2 + n.2 ^ 2 < o.1 ^ 2 + o.2 ^ 2 := by
  rcases mem_directions_or_four_le o with ho | ho
  · obtain ⟨q, hseen, hset⟩ := exists_neighbours_eq_at_origin p x y
    simp only [hseen, hset]
    revert o
    cases q <;> decide
  · exact .inr fun n hn => by linarith [neighbours_dist_le p x y _ n hn]

/-- What a rising list is searched for, it finds the least of. -/
theorem find?_le_of_pairwise {α β : Type} [Preorder β] {key : α → β} {l : List α}
    {P : α → Bool} {a b : α} (hl : l.Pairwise fun a b => key a < key b) (ha : l.find? P = some a)
    (hb : b ∈ l) (hP : P b = true) : key a ≤ key b := by
  obtain ⟨-, front, back, rfl, hfront⟩ := List.find?_eq_some_iff_append.1 ha
  rw [List.mem_append, List.mem_cons] at hb
  rcases hb with hb | rfl | hb
  · simpa [hP] using hfront b hb
  · exact le_rfl
  · exact (List.rel_of_pairwise_cons (List.pairwise_append.1 hl).2.1 hb).le

/-- The neighbour at offset `o` of `(x, y)` is in range (42_nearest_simple_bilinear.md R111). -/
abbrev View.InRange (v : View) (x y : Nat) (o : Int × Int) : Prop :=
  0 ≤ (x : Int) + o.1 ∧ (x : Int) + o.1 < v.width ∧ 0 ≤ (y : Int) + o.2 ∧ (y : Int) + o.2 < v.height

variable {a b : Nat}

/-- On an axis of length 2 or more, one side of every site is in range. -/
theorem exists_side_inRange {n : Nat} (hn : 2 ≤ n) (ha : a < n) :
    ∃ d : Int, (d = 1 ∨ d = -1) ∧ 0 ≤ a + d ∧ a + d < n := by
  by_cases h : a = 0
  · exact ⟨1, .inl rfl, by omega⟩
  · exact ⟨-1, .inr rfl, by omega⟩

/-- In a mosaic of at least 2 by 2 some neighbour is in range. -/
theorem View.exists_inRange (hw : 2 ≤ v.width) (hh : 2 ≤ v.height) (ha : a < v.width) (hb : b < v.height)
    (c : Chan) : ∃ o ∈ neighbours v.pattern a b c, v.InRange a b o := by
  obtain ⟨dx, hdx, hx⟩ := exists_side_inRange hw ha
  obtain ⟨dy, hdy, hy⟩ := exists_side_inRange hh hb
  obtain ⟨o, ho, hox, hoy⟩ := exists_mem_neighbours_toward v.pattern a b c hdx hdy
  exact ⟨o, ho, by omega⟩

/-- The first neighbour in range is at least as near as any candidate. -/
theorem View.offsetKey_find?_le (ho : (neighbours v.pattern a b c).find? (v.InRange a b ·) = some o)
    (hr : r ∈ v.candidates c) : offsetKey o ≤ offsetKey (offsetFrom a b r) := by
  obtain ⟨hx, hy, hc⟩ := View.mem_candidates.1 hr
  have hsite := mem_neighbours_or_farther v.pattern a b (offsetFrom a b r)
  simp only [offsetFrom, add_sub_cancel, hc] at hsite
  rcases hsite with hmem | hfar
  · exact find?_le_of_pairwise (neighbours_pairwise _ _ _ _) ho hmem (decide_eq_true (by
      rw [View.InRange, offsetFrom]
      omega))
  · exact offsetKey_le_iff.2 (.inl (hfar o (List.mem_of_find?_eq_some ho)))

/-- NEAREST copies the first neighbour in range (42_nearest_simple_bilinear.md R111). -/
theorem nearest_eq_of_find? (ho : (neighbours v.pattern a b c).find? (v.InRange a b ·) = some o) :
    nearest v c a b = v.cell ((b + o.2) * v.width + (a + o.1)).toNat := by
  have hin : decide (v.InRange a b o) = true := List.find?_some (p := (v.InRange a b ·)) ho
  obtain ⟨hx0, hx1, hy0, hy1⟩ := of_decide_eq_true hin
  have hcolor := color_of_mem_neighbours (List.mem_of_find?_eq_some ho)
  obtain ⟨a', ha'⟩ := Int.eq_ofNat_of_zero_le hx0
  obtain ⟨b', hb'⟩ := Int.eq_ofNat_of_zero_le hy0
  have hoff : offsetFrom a b (a', b') = o := by
    simp [offsetFrom, ← ha', ← hb']
  rw [ha', hb'] at hcolor ⊢
  rw [nearest_eq_cell (q := (a', b')) (View.mem_candidates.2 ⟨by omega, by omega, hcolor⟩)
    fun r hr => hoff ▸ View.offsetKey_find?_le ho hr]
  exact congrArg v.cell (Int.toNat_natCast (b' * v.width + a')).symm

/-- NEAREST copies the native channel (42_nearest_simple_bilinear.md R116). -/
theorem nearest_native (ha : a < v.width) (hb : b < v.height) :
    nearest v (color v.pattern a b) a b = v.cell (b * v.width + a) := by
  rw [nearest_eq_of_find? (o := (0, 0)) (by simp [neighbours, ha, hb])]
  exact congrArg v.cell (Int.toNat_natCast (b * v.width + a))

end Sys2Proof.Machine
end

section
open Sys2Proof Sys2Proof.Machine

/-- Settles O10: the image holds NEAREST's values, each the cell of the candidate of least key. -/
theorem nearestTakesClosestSample : Obligations.NearestTakesClosestSample := by
  intro p s i hi h
  obtain ⟨hg, hm⟩ : i.geometry = .full ∧ i.method = .nearest := by
    rcases hi with rfl | rfl <;> exact ⟨rfl, rfl⟩
  rw [← hg] at h
  have hlegal := h.legal i.pattern
  refine h.runsTo fun x y c _ _ => ?_
  obtain ⟨q, hq, hvalue, hle⟩ := exists_nearest_eq_least hlegal.widthOk hlegal.heightOk c x y
  obtain ⟨ha, hb, hc⟩ := View.mem_candidates.1 hq
  rw [hm]
  refine ⟨q.1, q.2, ha, hb, hc, hvalue, fun a' b' ha' hb' hc' => ?_⟩
  have hkey := hle (a', b') (View.mem_candidates.2 ⟨ha', hb', hc'⟩)
  simpa [offsetKey_le_iff, offsetFrom] using hkey

/-- Settles O11: the image holds SIMPLE's values, which are the rule's own. -/
theorem simpleAveragesAdjacentSamples : Obligations.SimpleAveragesAdjacentSamples := by
  rintro p s i (rfl | rfl) h <;> exact RunReady.runsTo h fun _ _ _ _ _ => rfl

/-- Settles O12: the image holds BILINEAR's values, set by set. -/
theorem bilinearAveragesSymmetricNeighbours : Obligations.BilinearAveragesSymmetricNeighbours := by
  rintro p s i (rfl | rfl) h <;>
    exact RunReady.runsTo h fun _ _ _ _ _ => ite_congr rfl (fun _ => rfl) View.bil_of_ne

/-- Settles O22: some neighbour is in range, so there is a first one, and NEAREST copies it. -/
theorem nearestHasClosedForm : Obligations.NearestHasClosedForm := by
  intro v c x y hw hh hx hy
  obtain ⟨n, hn, hin⟩ := View.exists_inRange hw hh hx hy c
  obtain ⟨o, ho⟩ := Option.isSome_iff_exists.1
    (List.find?_isSome (p := (v.InRange x y ·)).2 ⟨n, hn, decide_eq_true hin⟩)
  exact ⟨o, ho, nearest_eq_of_find? ho⟩

/-- Settles O23: both rules divide the same sum by the same count. -/
theorem simpleEqualsBilinear : Obligations.SimpleEqualsBilinear := fun _ _ _ _ => rfl

/-- Settles O24: the native channel's one neighbour is the site, which all three read. -/
theorem nativeChannelIsTheInputSample : Obligations.NativeChannelIsTheInputSample := by
  intro m v x y hm hx hy
  have hsample := View.sample_of_lt hx hy
  rcases hm with rfl | rfl | rfl
  · exact nearest_native hx hy
  · exact (if_pos rfl).trans hsample
  · exact (if_pos rfl).trans hsample

end

section
/-! HQLINEAR's correction (43_hqlinear_edgesense.md R125, R126) and EDGESENSE's green (R128), against the bilinear
mean. -/

namespace Sys2Proof.Machine

variable (v : View) (c : Chan) (x y : Int)

theorem View.nsum_nonneg : 0 ≤ v.nsum x y c :=
  List.sum_nonneg (List.forall_mem_map.2 fun _ _ => v.sample_nonneg _ _)

/-- The number of neighbours divides 4, so HQLINEAR's scale `4 div k` is exact (43_hqlinear_edgesense.md R126). -/
theorem View.four_div_count_mul_count : 4 / v.count x y c * v.count x y c = 4 := by
  rcases v.count_cases x y c with hk | hk | hk <;> rw [hk] <;> rfl

/-- HQLINEAR's division without the correction is the bilinear mean: the common factor cancels, and a sum of
samples is not negative, so rounding toward zero is rounding down (43_hqlinear_edgesense.md R126). -/
theorem View.tdiv_base_eq_bil {d : Int} (hd : 0 < d) :
    tdiv (4 / v.count x y c * d * v.nsum x y c) (4 * d) = v.bil x y c := by
  have hfour := v.four_div_count_mul_count c x y
  have hscale : 0 < 4 / v.count x y c * d := by
    rcases v.count_cases x y c with hk | hk | hk <;> rw [hk] <;> omega
  have hden : 4 * d = 4 / v.count x y c * d * v.count x y c := by
    rw [mul_right_comm, hfour]
  rw [hden, tdiv, Int.mul_tdiv_mul_of_pos _ _ hscale, Int.tdiv_eq_ediv_of_nonneg (v.nsum_nonneg c x y), View.bil]

/-- Green at a red or blue site is the mean of the four axial neighbours (42_nearest_simple_bilinear.md R114). -/
theorem View.bil_green {v : View} {x y : Int} (h : Chan.g ≠ color v.pattern x y) :
    v.bil x y .g =
      (v.sample (x - 1) y + v.sample (x + 1) y + v.sample x (y - 1) + v.sample x (y + 1)) / 4 := by
  rw [View.bil_of_ne h, if_neg h.symm, if_pos rfl]
  congr 1
  ring

/-- The choice of green, its differences written as absolute values (43_hqlinear_edgesense.md R128, 00_scope.md R12). -/
theorem View.edgeGreen_eq :
    v.edgeGreen x y =
      if abs (abs (v.sample (x - 1) y - v.sample (x + 1) y) - abs (v.sample x (y - 1) - v.sample x (y + 1))) ≤
          edgeEps v.params v.depth then
        (v.sample (x - 1) y + v.sample (x + 1) y + v.sample x (y - 1) + v.sample x (y + 1)) / 4
      else if abs (v.sample (x - 1) y - v.sample (x + 1) y) < abs (v.sample x (y - 1) - v.sample x (y + 1)) then
        (v.sample (x - 1) y + v.sample (x + 1) y) / 2
      else (v.sample x (y - 1) + v.sample x (y + 1)) / 2 := by
  simp only [View.edgeGreen, absDiff_eq_abs]

end Sys2Proof.Machine
end

section
open Sys2Proof Sys2Proof.Machine

/-- Settles O13: the image holds HQLINEAR's values, which are the rule's own. -/
theorem hqlinearCorrectsByLaplacian : Obligations.HqlinearCorrectsByLaplacian := by
  rintro p s i (rfl | rfl) h <;> exact RunReady.runsTo h fun _ _ _ _ _ => rfl

/-- Settles O15: the image holds EDGESENSE's values, whose green compares the gradients by their absolute
values. -/
theorem edgesenseFollowsLowerGradient : Obligations.EdgesenseFollowsLowerGradient := by
  rintro p s i (rfl | rfl) h <;>
    exact RunReady.runsTo h fun x y c _ _ =>
      ite_congr rfl (fun _ => rfl) fun _ => ite_congr rfl (fun _ => View.edgeGreen_eq _ x y) fun _ => rfl

/-- Settles O25: the division gives the bilinear mean, which lies within `[0, MAX]`, where the clamp changes
nothing. -/
theorem hqlinearWithoutLaplacianIsBilinear : Obligations.HqlinearWithoutLaplacianIsBilinear := by
  intro v c x y h hlap
  have hden : 0 < (v.params.hqDen : Int) := by exact_mod_cast Params.ok_hqlinear h.paramsOk
  obtain ⟨h0, h1⟩ := h.bil_mem c x y
  rw [hqlinear, bilinear, hlap, mul_zero, add_zero, v.tdiv_base_eq_bil c x y hden, clamp_of_mem h0 h1]

/-- Settles O26: within epsilon green is the mean of the four axial neighbours, which is the bilinear mean of
green; the other channels follow the bilinear rule itself. -/
theorem edgesenseWithinEpsilonIsBilinear : Obligations.EdgesenseWithinEpsilonIsBilinear := by
  intro v c x y heps
  refine ite_congr rfl (fun _ => rfl) fun hc => ?_
  split_ifs with hg
  · subst hg
    rw [v.edgeGreen_eq x y, if_pos heps, View.bil_green hc]
  · rfl

end

section
/-! DOWNSAMPLE over the cells it names (44_downsample.md R140 to R142). -/

namespace Sys2Proof.Machine

/-- The cell of site `o` of the tile at column `i` and row `j` of the halved image (44_downsample.md R140). -/
def View.tileCell (v : View) (i j : Nat) (o : Nat × Nat) : Int :=
  v.cell ((2 * j + o.2) * v.width + (2 * i + o.1))

/-- At every tile DOWNSAMPLE is the mean of the tile's cells of the channel (44_downsample.md R140). -/
theorem downsample_eq_mean_tileCell (v : View) (c : Chan) (i j : Nat) :
    downsample v c i j =
      ((tileSites v.pattern c).map (v.tileCell i j)).sum / ((tileSites v.pattern c).length : Int) := rfl

/-- A channel with one site in the tile takes the sample there itself, as red and blue do. -/
theorem downsample_of_tileSites_singleton {v : View} {c : Chan} {o : Nat × Nat}
    (h : tileSites v.pattern c = [o]) (i j : Nat) : downsample v c i j = v.tileCell i j o := by
  simp [downsample_eq_mean_tileCell, h]

/-- A channel with two sites in the tile takes the truncated mean of their samples, as green does. -/
theorem downsample_of_tileSites_pair {v : View} {c : Chan} {o o' : Nat × Nat}
    (h : tileSites v.pattern c = [o, o']) (i j : Nat) :
    downsample v c i j = (v.tileCell i j o + v.tileCell i j o') / 2 := by
  simp [downsample_eq_mean_tileCell, h]

end Sys2Proof.Machine
end

section
open Sys2Proof Sys2Proof.Machine

/-- Settles O14: the image holds DOWNSAMPLE's values; in every pattern red and blue have one site in the tile
and green two. -/
theorem downsampleReducesEachTile : Obligations.DownsampleReducesEachTile := by
  rintro p s i (rfl | rfl) h <;> refine ⟨rfl, rfl, RunReady.runsTo h fun x y c _ _ => ?_⟩ <;>
  · generalize viewOf s _ _ = v
    obtain ⟨_, q, _, _, _, _⟩ := v
    cases c with
    | r | b => cases q <;> exact (downsample_of_tileSites_singleton (by rfl) x y).trans (by rfl)
    | g => cases q <;> exact (downsample_of_tileSites_pair (by rfl) x y).trans (by rfl)

/-- Settles O28: the cells of a tile lie in columns below `2 * (W div 2)` and rows below `2 * (H div 2)`. -/
theorem downsampleIgnoresOddEdge : Obligations.DownsampleIgnoresOddEdge := by
  intro v w c i j hw hi hj hcell
  have hpattern : w.pattern = v.pattern := by rw [hw]
  have hwidth : w.width = v.width := by rw [hw]
  have htile : ∀ o ∈ tileSites v.pattern c, v.tileCell i j o = w.tileCell i j o := by
    intro o ho
    obtain ⟨hx, hy, -⟩ := tileSites_spec ho
    rw [View.tileCell, View.tileCell, hwidth]
    exact hcell _ _ (by omega) (by omega)
  rw [downsample_eq_mean_tileCell, downsample_eq_mean_tileCell, hpattern, List.map_congr_left htile]

end

section
/-! VNG's gradients and their extremes (45_vng.md R151, R152), and the window VNG reads (R151, R154). -/

namespace Sys2Proof.Machine

theorem leastOf_le {l : List Int} {a : Int} (h : a ∈ l) : leastOf l ≤ a := by
  cases l with
  | nil => simp at h
  | cons b t => exact (List.le_min?_iff (by rfl)).1 le_rfl a h

theorem greatestOf_mem {l : List Int} (h : l ≠ []) : greatestOf l ∈ l := by
  obtain ⟨a, t, rfl⟩ := List.exists_cons_of_ne_nil h
  exact List.max?_mem (by rfl)

section Gradients
variable (v : View) (x y : Int)

theorem View.grad_eq_abs (d : Int × Int) :
    v.grad x y d = abs (v.sample (x + 2 * d.1) (y + 2 * d.2) - v.sample x y) +
      abs (v.sample (x + d.1) (y + d.2) - v.sample (x - d.1) (y - d.2)) := by
  simp only [View.grad, absDiff_eq_abs]

theorem View.gradMin_le_grad {d : Int × Int} (h : d ∈ directions) : v.gradMin x y ≤ v.grad x y d :=
  leastOf_le (List.mem_map_of_mem h)

/-- Some direction has the greatest gradient (45_vng.md R152). -/
theorem View.exists_grad_eq_gradMax : ∃ d ∈ directions, v.grad x y d = v.gradMax x y :=
  List.mem_map.1 (greatestOf_mem (by simp [directions]))

end Gradients

/-- The mean over the valid directions divides by at least one (45_vng.md R155). -/
theorem View.validDirections_length_pos {v : View} (h : v.params.ok = true) (x y : Int) :
    1 ≤ (v.validDirections x y).length :=
  List.length_pos_of_ne_nil (View.validDirections_ne_nil h x y)

/-! ### Windows -/

/-- The two views agree on every sample read at most `r` away from `(x, y)` in each axis. -/
def View.AgreeWithin (u v : View) (r x y : Int) : Prop :=
  ∀ a b : Int, abs (a - x) ≤ r → abs (b - y) ≤ r → u.sample a b = v.sample a b

/-- The offset goes at most one step in each axis. -/
abbrev IsUnitStep (o : Int × Int) : Prop := abs o.1 ≤ 1 ∧ abs o.2 ≤ 1

theorem isUnitStep_of_mem_directions : ∀ d ∈ directions, IsUnitStep d := by
  decide

/-- The neighbours of a site lie in the 3x3 window centred on it (40_pixel_addressing.md R90). -/
theorem isUnitStep_of_mem_neighbours (p : Pattern) (x y : Int) (c : Chan) :
    ∀ o ∈ neighbours p x y c, IsUnitStep o := by
  unfold neighbours axialOffsets diagonalOffsets
  split_ifs <;> decide

section Window
variable {u v : View} {r x y : Int} {d : Int × Int} {c : Chan}

/-- Views agree at a number of steps in a direction, if the window reaches as far. -/
theorem View.AgreeWithin.sample_eq (h : u.AgreeWithin v r x y) (hd : IsUnitStep d) {n : Int} (hn : abs n ≤ r) :
    u.sample (x + n * d.1) (y + n * d.2) = v.sample (x + n * d.1) (y + n * d.2) := by
  obtain ⟨hx, hy⟩ := hd
  refine h _ _ ?_ ?_
  · rw [add_sub_cancel_left, abs_mul]
    exact (mul_le_of_le_one_right (abs_nonneg n) hx).trans hn
  · rw [add_sub_cancel_left, abs_mul]
    exact (mul_le_of_le_one_right (abs_nonneg n) hy).trans hn

/-- One step away from the centre the window that is left reaches one less. -/
theorem View.AgreeWithin.step (h : u.AgreeWithin v (r + 1) x y) (hd : IsUnitStep d) :
    u.AgreeWithin v r (x + d.1) (y + d.2) := by
  obtain ⟨hx, hy⟩ := hd
  intro a b ha hb
  simp only [abs_le] at ha hb hx hy
  exact h a b (abs_le.2 (by omega)) (abs_le.2 (by omega))

/-- The bilinear mean at a position reads the 3x3 window centred on it (40_pixel_addressing.md R92). -/
theorem View.AgreeWithin.bil_eq (h : u.AgreeWithin v 1 x y) (hp : u.pattern = v.pattern) :
    u.bil x y c = v.bil x y c := by
  have hread : ∀ o ∈ neighbours v.pattern x y c,
      u.sample (x + o.1) (y + o.2) = v.sample (x + o.1) (y + o.2) := by
    intro o ho
    simpa using h.sample_eq (isUnitStep_of_mem_neighbours _ _ _ _ o ho) (n := 1) (by decide)
  rw [View.bil, View.bil, View.nsum, View.nsum, View.count, View.count, hp, List.map_congr_left hread]

variable (h : u.AgreeWithin v 2 x y)
include h

/-- A gradient reads two steps away at most (45_vng.md R151). -/
theorem View.AgreeWithin.grad_eq (hd : d ∈ directions) : u.grad x y d = v.grad x y d := by
  have hread {n : Int} (hn : abs n ≤ 2) := h.sample_eq (isUnitStep_of_mem_directions d hd) hn
  have htwo := hread (n := 2) (by decide)
  have hsite : u.sample x y = v.sample x y := by simpa using hread (n := 0) (by decide)
  have hahead : u.sample (x + d.1) (y + d.2) = v.sample (x + d.1) (y + d.2) := by
    simpa using hread (n := 1) (by decide)
  have hback : u.sample (x - d.1) (y - d.2) = v.sample (x - d.1) (y - d.2) := by
    simpa [← sub_eq_add_neg] using hread (n := -1) (by decide)
  rw [View.grad, View.grad, htwo, hsite, hahead, hback]

/-- The gradients of the window decide which directions are valid (45_vng.md R152). -/
theorem View.AgreeWithin.validDirections_eq (hp : u.params = v.params) :
    u.validDirections x y = v.validDirections x y := by
  have hgrads : directions.map (u.grad x y) = directions.map (v.grad x y) :=
    List.map_congr_left fun _ => h.grad_eq
  have hmin : u.gradMin x y = v.gradMin x y := congrArg leastOf hgrads
  have hmax : u.gradMax x y = v.gradMax x y := congrArg greatestOf hgrads
  refine List.filter_congr fun d hd => ?_
  rw [View.validDirection, View.validDirection, hp, h.grad_eq hd, hmin, hmax]

/-- An estimate is a bilinear mean one step away (45_vng.md R154). -/
theorem View.AgreeWithin.estimate_eq (hp : u.pattern = v.pattern) (hd : d ∈ directions) :
    u.estimate c x y d = v.estimate c x y d :=
  (View.AgreeWithin.step h (isUnitStep_of_mem_directions d hd)).bil_eq hp

/-- VNG at a position reads the 5x5 window centred on it (45_vng.md R151, R154). -/
theorem View.AgreeWithin.vng_eq (hparams : u.params = v.params) (hpattern : u.pattern = v.pattern) :
    vng u c x y = vng v c x y := by
  have hsite : u.sample x y = v.sample x y := h x y (by simp) (by simp)
  have hestimates : (v.validDirections x y).map (u.estimate c x y) =
      (v.validDirections x y).map (v.estimate c x y) :=
    List.map_congr_left fun _ hd => h.estimate_eq hpattern (List.mem_of_mem_filter hd)
  rw [vng, vng, hpattern, hsite, h.validDirections_eq hparams, hestimates]

end Window

end Sys2Proof.Machine
end

section
open Sys2Proof Sys2Proof.Machine

/-- Settles O16: the image holds VNG's values; the two extremes of the rule are the model's, each met by some
direction and a bound of all eight. -/
theorem vngAveragesValidDirections : Obligations.VngAveragesValidDirections := by
  rintro p s i (rfl | rfl) h <;> refine RunReady.runsTo h fun x y c _ _ => ?_ <;>
  · have hcount := View.validDirections_length_pos (h.legal p).paramsOk x y
    simp only [← View.grad_eq_abs]
    by_cases hc : c = color p x y
    · exact .inl ⟨hc, if_pos hc⟩
    · exact .inr ⟨hc, _, _, View.exists_grad_eq_gradMin _ x y, fun _ => View.gradMin_le_grad _ x y,
        View.exists_grad_eq_gradMax _ x y, fun _ => View.grad_le_gradMax _ x y, hcount, if_neg hc⟩

/-- Settles O27: a direction of least gradient is valid. -/
theorem vngAlwaysHasValidDirection : Obligations.VngAlwaysHasValidDirection :=
  fun _ x y h => View.validDirections_length_pos h x y

/-- Settles O29: the gradients read two steps away, and the estimates one step around one step away. -/
theorem vngReadsFiveByFiveWindow : Obligations.VngReadsFiveByFiveWindow := by
  intro v w c x y hw h
  exact View.AgreeWithin.vng_eq h (by rw [hw]) (by rw [hw])

end

section
/-! AHD's candidates, projection and scores in the words of their rules (46_ahd.md R166 to R170), and the window AHD
reads (R165). -/

namespace Sys2Proof.Machine

/-! ### Candidates, projection and scores -/

/-- `clamp` as a maximum and a minimum (00_scope.md R12). -/
theorem clamp_eq_max_min (d : Depth) (q : Int) : clamp d q = max 0 (min (maxSample d) q) := by
  have := maxSample_nonneg d
  unfold clamp
  split_ifs <;> omega

/-- Red and blue of a candidate are rebuilt from colour differences (46_ahd.md R168). -/
theorem View.candidate_of_ne_green {c : Chan} (hc : c ≠ .g) (v : View) (k : Axis) (x y : Int) :
    v.candidate k c x y = v.candColour k c x y := by
  cases c with
  | g => exact absurd rfl hc
  | r => rfl
  | b => rfl

/-- The default transform (46_ahd.md R169). -/
theorem project_of_opponent {p : Params} (h : p.ahdProject = .opponent) (r g b : Int) :
    project p r g b = (r + 2 * g + b, r - g, b - g) := by
  simp only [project, h]

/-- Close pixels, their differences written as absolute values (46_ahd.md R170, 00_scope.md R12). -/
theorem closePixels_iff {p : Params} {d : Depth} {a b : Int × Int × Int} :
    closePixels p d a b = true ↔
      abs (b.1 - a.1) ≤ ahdEpsL p d ∧ abs (b.2.1 - a.2.1) ≤ ahdEpsC p d ∧
        abs (b.2.2 - a.2.2) ≤ ahdEpsC p d := by
  simp only [closePixels, absDiff_eq_abs, Bool.and_eq_true, decide_eq_true_eq, and_assoc]

theorem View.homogeneity_eq_countP (v : View) (k : Axis) (x y : Int) :
    v.homogeneity k x y =
      directions.countP fun d =>
        closePixels v.params v.depth (v.projected k x y)
          (v.projected k (v.cx (x + d.1)) (v.cy (y + d.2))) :=
  List.countP_eq_length_filter.symm

/-- There are eight neighbours to count (46_ahd.md R170). -/
theorem View.homogeneity_le (v : View) (k : Axis) (x y : Int) : v.homogeneity k x y ≤ 8 :=
  List.length_filter_le _ directions

/-! ### Views that differ in IN only -/

/-- The view of another mosaic under the same command and platform. -/
def View.withInp (v : View) (m : Memory) : View := { v with inp := m }

section WithInp
variable (v : View) (m : Memory)

@[simp] theorem View.withInp_params : (v.withInp m).params = v.params := rfl
@[simp] theorem View.withInp_pattern : (v.withInp m).pattern = v.pattern := rfl
@[simp] theorem View.withInp_depth : (v.withInp m).depth = v.depth := rfl
@[simp] theorem View.withInp_cx : (v.withInp m).cx = v.cx := rfl
@[simp] theorem View.withInp_cy : (v.withInp m).cy = v.cy := rfl

end WithInp

/-! ### Windows around positions in range -/

/-- The position is in range: a column below `W` and a row below `H` (20_memory.md R46). -/
structure View.Covers (v : View) (x y : Int) : Prop where
  column : 0 ≤ x ∧ x < v.width
  row : 0 ≤ y ∧ y < v.height

section Window
variable {u v : View} {m : Memory} {r x y a b : Int} {k : Axis} {c : Chan}

/-- A mosaic with a position in range covers every clamped position (20_memory.md R46). -/
theorem View.Covers.clamped (h : v.Covers x y) (a b : Int) : v.Covers (v.cx a) (v.cy b) where
  column := View.cx_mem (by have := h.column; omega) a
  row := View.cy_mem (by have := h.row; omega) b

/-- Around a position one step from a centre in range, clamped, the window that is left reaches one less. -/
theorem View.AgreeWithin.step_clamped (h : u.AgreeWithin v (r + 1) x y) (hu : u.Covers x y)
    (ha : abs (a - x) ≤ 1) (hb : abs (b - y) ≤ 1) : u.AgreeWithin v r (u.cx a) (u.cy b) := by
  obtain ⟨hx, hy⟩ := hu
  intro a' b' ha' hb'
  simp only [abs_le, View.cx, View.cy] at ha hb ha' hb'
  exact h a' b' (abs_le.2 (by omega)) (abs_le.2 (by omega))

theorem View.AgreeWithin.mono {s : Int} (h : u.AgreeWithin v s x y) (hrs : r ≤ s) :
    u.AgreeWithin v r x y :=
  fun a b ha hb => h a b (ha.trans hrs) (hb.trans hrs)

/-- The green plane reads two steps away at most (46_ahd.md R166). -/
theorem View.AgreeWithin.greenPlane_eq (h : v.AgreeWithin (v.withInp m) 2 x y) :
    v.greenPlane k x y = (v.withInp m).greenPlane k x y := by
  unfold View.AgreeWithin at h
  refine ite_congr rfl (fun _ => h x y (by simp) (by simp)) fun _ => ?_
  cases k <;> simp [h]

/-- A colour difference one step away reads the green plane one clamped step away (46_ahd.md R167). -/
theorem View.AgreeWithin.greenDiff_eq (h : v.AgreeWithin (v.withInp m) 3 x y) (hv : v.Covers x y)
    (ha : abs (a - x) ≤ 1) (hb : abs (b - y) ≤ 1) :
    v.greenDiff k a b = (v.withInp m).greenDiff k a b := by
  have hsample : v.sample a b = (v.withInp m).sample a b :=
    h a b (ha.trans (by decide)) (hb.trans (by decide))
  have hgreen := (View.AgreeWithin.step_clamped h hv ha hb).greenPlane_eq (k := k)
  simp only [View.greenDiff, View.withInp_cx, View.withInp_cy, hsample, hgreen]

/-- Red and blue of a candidate read colour differences one step away (46_ahd.md R168). -/
theorem View.AgreeWithin.candColour_eq (h : v.AgreeWithin (v.withInp m) 3 x y) (hv : v.Covers x y) :
    v.candColour k c x y = (v.withInp m).candColour k c x y := by
  have hsite : v.sample x y = (v.withInp m).sample x y := h x y (by simp) (by simp)
  have hgreen : v.greenPlane k x y = (v.withInp m).greenPlane k x y := (h.mono (by decide)).greenPlane_eq
  have hdiff {a b : Int} := h.greenDiff_eq (a := a) (b := b) (k := k) hv
  refine ite_congr rfl (fun _ => hsite) fun _ =>
    ite_congr rfl (fun _ => ite_congr rfl (fun _ => ?_) fun _ => ?_) fun _ => ?_ <;>
    simp [hsite, hgreen, hdiff]

/-- A candidate at a position in range reads the 7x7 window centred on it (46_ahd.md R166 to R168). -/
theorem View.AgreeWithin.candidate_eq (h : v.AgreeWithin (v.withInp m) 3 x y) (hv : v.Covers x y) :
    v.candidate k c x y = (v.withInp m).candidate k c x y := by
  cases c with
  | g => exact (h.mono (by decide)).greenPlane_eq
  | r => exact h.candColour_eq hv
  | b => exact h.candColour_eq hv

/-- A projected pixel is a function of its candidate (46_ahd.md R169). -/
theorem View.AgreeWithin.projected_eq (h : v.AgreeWithin (v.withInp m) 3 x y) (hv : v.Covers x y) :
    v.projected k x y = (v.withInp m).projected k x y := by
  simp only [View.projected, View.withInp_params, h.candidate_eq hv]

/-- A score compares the pixel with its eight neighbours, one clamped step away (46_ahd.md R170). -/
theorem View.AgreeWithin.homogeneity_eq (h : v.AgreeWithin (v.withInp m) 4 x y) (hv : v.Covers x y) :
    v.homogeneity k x y = (v.withInp m).homogeneity k x y := by
  refine congrArg List.length (List.filter_congr fun d hd => ?_)
  obtain ⟨hdx, hdy⟩ := isUnitStep_of_mem_directions d hd
  have hneighbour := (View.AgreeWithin.step_clamped h hv (a := x + d.1) (b := y + d.2)
    (by simpa using hdx) (by simpa using hdy)).projected_eq (k := k) (hv.clamped _ _)
  simp only [View.withInp_params, View.withInp_depth, View.withInp_cx, View.withInp_cy, hneighbour,
    (h.mono (by decide)).projected_eq hv]

/-- AHD at a position in range reads the 9x9 window centred on it (46_ahd.md R165). -/
theorem View.AgreeWithin.ahd_eq (h : v.AgreeWithin (v.withInp m) 4 x y) (hv : v.Covers x y) :
    ahd v c x y = ahd (v.withInp m) c x y := by
  simp only [ahd, h.homogeneity_eq hv, (h.mono (by decide)).candidate_eq hv]

end Window

end Sys2Proof.Machine
end

section
open Sys2Proof Sys2Proof.Machine

/-- Settles O17: the image holds AHD's values, which compare the two scores. -/
theorem ahdTakesMoreHomogeneousCandidate : Obligations.AhdTakesMoreHomogeneousCandidate := by
  rintro p s i (rfl | rfl) h <;>
    exact RunReady.runsTo h fun _ _ _ _ _ => ⟨fun hle => if_pos hle, fun hlt => if_neg hlt.not_ge⟩

/-- Settles O18: green is the candidate's green plane, red and blue are rebuilt from the colour differences. -/
theorem ahdCandidateImages : Obligations.AhdCandidateImages := by
  intro v k c x y fit dif
  have hfit : clamp v.depth = fit := funext (clamp_eq_max_min v.depth)
  by_cases hc : c = .g
  · subst hc
    rw [if_pos rfl, ← hfit]
    exact ite_congr (propext eq_comm) (fun _ => rfl) fun _ => by cases k <;> rfl
  · rw [View.candidate_of_ne_green hc, View.candColour, if_neg hc, hfit]
    rfl

/-- Settles O19: the default transform, and the scores as counts over eight directions. -/
theorem ahdProjectionAndHomogeneity : Obligations.AhdProjectionAndHomogeneity := by
  intro v k x y
  refine ⟨fun h => project_of_opponent h _ _ _, v.homogeneity_le k x y, ?_⟩
  rw [View.homogeneity_eq_countP]
  exact List.countP_congr fun d _ => closePixels_iff.trans decide_eq_true_iff.symm

/-- Settles O30: the scores compare candidates one clamped step apart, and a candidate reads three steps away. -/
theorem ahdReadsNineByNineWindow : Obligations.AhdReadsNineByNineWindow := by
  intro v w c x y hw hx hy h
  obtain ⟨m, rfl⟩ : ∃ m, w = v.withInp m := ⟨w.inp, hw⟩
  exact View.AgreeWithin.ahd_eq h ⟨⟨by omega, by omega⟩, by omega, by omega⟩

end

section
/-! The reset event field by field (70_reset_and_hazards.md R205, R207), HOST's read of an OUT cell in an open window
(R217), and the command registers as what a run does not look at (R213). -/

namespace Sys2Proof.Machine

variable {s t : State} {i : Instr}

/-! ### The reset event -/

@[simp] theorem resetEvent_status (s : State) : (resetEvent s).status = statusIdle := by
  rcases resetEvent_cases s with ⟨-, h⟩ | ⟨-, h⟩ <;> simp [h]

@[simp] theorem resetEvent_moves (s : State) : (resetEvent s).moves = s.moves := by
  rcases resetEvent_cases s with ⟨-, h⟩ | ⟨-, h⟩ <;> simp [h]

/-- With no run in flight OUT is unchanged (10_state.md R37). -/
theorem resetEvent_out_of_not_busy (hb : busy s = false) : (resetEvent s).out = s.out := by
  simp [resetEvent, hb]

/-- The OUT cells of the abandoned run are free values, the others as before. -/
theorem read_resetEvent_of_busy (hs : s.out.wf) (hb : busy s = true) (a : Nat) :
    (resetEvent s).out.read a =
      if a < nOut s.cmd then Config.freeSample (s.freeCtr + a) else s.out.read a := by
  rw [resetEvent, if_pos hb, State.clear_out]
  exact State.read_freeOut hs _ a

/-! ### OUT in an open window -/

/-- Below `N_out` of an open window a read of OUT returns a free value (20_memory.md R61). -/
theorem readOut_of_lt_windows {a : Nat} (h : a < s.params.outLen) (hw : a < outBelow s.windows) :
    readOut s a = .next ((s.receive (Config.freeSample s.freeCtr).toNat).drawFree 1) := by
  simp [readOut, h.not_ge, hw]

/-! ### The command registers -/

/-- `s` with the command registers, their marks and the turns to come of `r`. -/
def State.withRegistersOf (s r : State) : State :=
  { s with
    width := r.width, height := r.height, ctrl := r.ctrl
    widthWritten := r.widthWritten, heightWritten := r.heightWritten, ctrlWritten := r.ctrlWritten
    moves := r.moves }

/-- A write of WIDTH, HEIGHT or CTRL changes the command registers only (10_state.md R24). -/
theorem exists_withRegistersOf_of_writeRegister {n v : Nat} (hn : n < 3)
    (h : writeRegister s n v = .next t) : ∃ r, t = s.withRegistersOf r := by
  rcases writeRegister_next h with ⟨-, -, rfl⟩ | ⟨-, -, rfl⟩ | ⟨-, -, rfl⟩ | ⟨rfl, -⟩ | ⟨rfl, -⟩ | ⟨rfl, -⟩
  · exact ⟨s.setWidth v, rfl⟩
  · exact ⟨s.setHeight v, rfl⟩
  · exact ⟨s.setCtrl (BitVec.ofNat 8 v), rfl⟩
  all_goals omega

/-- The run works on CMD_L: what stands in the command registers bears on neither its refusals nor its result
(10_state.md R25). -/
theorem exec_withRegistersOf (r : State) (h : exec i s = .next t) :
    exec i (s.withRegistersOf r) = .next (t.withRegistersOf r) := by
  obtain ⟨hr, rfl⟩ := exec_eq_next.1 h
  exact exec_eq_next.2 ⟨hr, rfl⟩

end Sys2Proof.Machine
end

section
open Sys2Proof Sys2Proof.Machine

/-- Settles O53, the two STATUS cases of OUT each by its own law. -/
theorem resetClearsTheEngine : Obligations.ResetClearsTheEngine := by
  intro s rest hm hwf
  obtain ⟨hwidth, hheight, hctrl⟩ := resetEvent_unwritten (s.setMoves rest)
  refine ⟨resetEvent (s.setMoves rest), step_cons hm, resetEvent_status _, hwidth, hheight, hctrl,
    resetEvent_inp _, resetEvent_params _, resetEvent_moves _,
    resetEvent_out_of_not_busy (s := s.setMoves rest), fun hb => ?_⟩
  have hread := read_resetEvent_of_busy (s := s.setMoves rest) hwf hb
  exact ⟨fun a ha => (hread a).trans (if_pos ha), fun a ha => (hread a).trans (if_neg ha.not_gt)⟩

/-- Settles O54: the write changes the command registers only, and the run does not look at them. -/
theorem registerWritesDoNotReachTheRun : Obligations.RegisterWritesDoNotReachTheRun := by
  intro s t rest n v _ hn hm hs
  obtain ⟨r, rfl⟩ := exists_withRegistersOf_of_writeRegister hn (step_wr hm ▸ hs)
  exact ⟨rfl, rfl, rfl, rfl, fun i u hu => ⟨u.withRegistersOf r, exec_withRegistersOf (s := s) r hu, rfl, rfl⟩⟩

/-- Settles O39: with no turn listed the turn is ENGINE's, and with BUSY = 0 it has no run. -/
theorem idleEngineDoesNothing : Obligations.IdleEngineDoesNothing := by
  intro s hb hm
  have hs : s.status ≠ statusBusy := fun h => Bool.false_ne_true (hb.symm.trans (statusBusy_busy h))
  exact (step_nil hm).trans (engineTurn_of_not_busy hs)

/-- Settles O58, inside an open window and outside every one. -/
theorem outputReadsInTheWindowAreAnyValue : Obligations.OutputReadsInTheWindowAreAnyValue := by
  intro s rest a hm ha
  refine ⟨fun hk => ?_, fun hk => ?_⟩
  · exact (step_rdOut hm).trans (readOut_of_lt_windows (s := s.setMoves rest) ha (lt_outBelow.2 hk))
  · exact (step_rdOut hm).trans (readOut_of_windows_le (s := s.setMoves rest) ha (outBelow_le hk))

end
